-- ==== Sys2Proof/Word.lean ====
section
/-! DEFINITION. The machine's two widths (`00_scope.md` R6): an 8-bit byte and a 16-bit address.
Both are plain bit vectors; every value is unsigned (`00_scope.md` section 6) and arithmetic on them wraps. -/

namespace Sys2Proof

/-- An 8-bit value: a memory cell, the data register, `ACC`, `X`, `Y`, `IR`, `LO`, `HI` (R6). -/
abbrev Byte := BitVec 8

/-- A 16-bit value: `PC` and `AR` (R6). -/
abbrev Addr := BitVec 16

/-- One buffered interrupt output item (`00_scope.md` R7, parameter `Item`, default a byte; log 21). -/
abbrev Item := Byte

end Sys2Proof
end

