-- ==== Sys2Proof/Config.lean ====
section
/-! DEFINITION. What an implementation fixes: the parameter `OPC`, a map from the instruction names to bytes
(`00_scope.md` R7; its default stands in Decode.lean), the address a program is loaded at, the listeners of the Clock (`10_state.md` R31), and the attributes of the
keyboard that the spec gives no value for (constants with no body, so nothing can be proved of their values). -/

namespace Sys2Proof

/-- The 18 instruction names, the domain of the parameter `OPC` (`30_encoding.md` R76). -/
inductive Opcode where
  | txa | tya | tax | tay | nop | brk
  | ldaImm | ldxImm | ldyImm
  | ldaAbs | ldxAbs | ldyAbs | staAbs
  | bneRel
  | adcAbs | cpxAbs | incAbs
  | sys
deriving DecidableEq, Repr

/-- The 18 names, in the order of R76. -/
def Opcode.all : List Opcode :=
  [.txa, .tya, .tax, .tay, .nop, .brk, .ldaImm, .ldxImm, .ldyImm, .ldaAbs, .ldxAbs, .ldyAbs, .staAbs, .bneRel,
    .adcAbs, .cpxAbs, .incAbs, .sys]

/-- The parameter `OPC`: the byte of each instruction name (`00_scope.md` R7, `30_encoding.md` R77). The decoder, the
encoder and the clock tick take it as an argument, whose default is `Opcode.defaultTable` (log 1). -/
abbrev OpcodeTable := Opcode → Byte

/-- What R77 requires of an `OPC`: its 18 values are pairwise distinct. -/
def OpcodeTable.wf (opc : OpcodeTable) : Bool :=
  decide ((Opcode.all.map opc).Nodup)

/-- The parameter `LOAD_ADDRESS`: where a program image is loaded unless the caller chooses another address
(`00_scope.md` R7, `30_encoding.md` R81; stated by the source). -/
def Config.loadAddress : Addr := 0x0000#16

/-- A component the Clock pulses (`40_pipeline.md` R91). -/
inductive Listener where
  | cpu
  | memory
deriving DecidableEq, Repr

/-- The keyboard's IRQ number: not in the source (`91_not_in_source.md` N7, `00_scope.md` R7); log 19. -/
opaque Config.kbdIrq : Nat

/-- The keyboard's priority: not in the source (`91_not_in_source.md` N7, `00_scope.md` R7); log 19. -/
opaque Config.kbdPriority : Int

/-- The keyboard's device name: not in the source (`91_not_in_source.md` N7); log 19. -/
opaque Config.kbdName : String

end Sys2Proof
end

