-- ==== Sys2Proof/Syntax.lean ====
section
/-! DEFINITION. The instructions: one constructor for each of the 18 rows of `spec/opcode_table.json`
(`30_encoding.md` R76), with the operands its format gives it (R72). -/

namespace Sys2Proof

/-- An instruction with its operands.
`sys` carries its address operand when it is written with one: its length depends on `X` at run time (R73), so
`SYS` alone is one byte long and `SYS addr` three (R72, R83). -/
inductive Instr where
  | txa
  | tya
  | tax
  | tay
  | nop
  | brk
  | ldaImm (imm : Byte)
  | ldxImm (imm : Byte)
  | ldyImm (imm : Byte)
  | ldaAbs (addr : Addr)
  | ldxAbs (addr : Addr)
  | ldyAbs (addr : Addr)
  | staAbs (addr : Addr)
  | bneRel (rel : Byte)
  | adcAbs (addr : Addr)
  | cpxAbs (addr : Addr)
  | incAbs (addr : Addr)
  | sys (operand : Option Addr)
deriving DecidableEq, Repr

/-- The name of an instruction, without its operands. -/
def Instr.opcode : Instr → Opcode
  | .txa => .txa
  | .tya => .tya
  | .tax => .tax
  | .tay => .tay
  | .nop => .nop
  | .brk => .brk
  | .ldaImm _ => .ldaImm
  | .ldxImm _ => .ldxImm
  | .ldyImm _ => .ldyImm
  | .ldaAbs _ => .ldaAbs
  | .ldxAbs _ => .ldxAbs
  | .ldyAbs _ => .ldyAbs
  | .staAbs _ => .staAbs
  | .bneRel _ => .bneRel
  | .adcAbs _ => .adcAbs
  | .cpxAbs _ => .cpxAbs
  | .incAbs _ => .incAbs
  | .sys _ => .sys

end Sys2Proof
end

