-- ==== Sys2Proof/WellFormed.lean ====
section
/-! DEFINITION. Which instructions can be what the machine runs, given the value of `X` when `Decode1` runs.
Operands have no illegal values (`30_encoding.md` R80); the one check is the length of `SYS` (R73). -/

namespace Sys2Proof

/-- Well-formed at `X = x`: a `SYS` has no operand exactly when `X = 1` (R73, R160); every other instruction always. -/
def Instr.wellFormed (x : Byte) : Instr → Bool
  | .sys none => x == 1#8
  | .sys (some _) => x != 1#8
  | .txa | .tya | .tax | .tay | .nop | .brk => true
  | .ldaImm _ | .ldxImm _ | .ldyImm _ | .bneRel _ => true
  | .ldaAbs _ | .ldxAbs _ | .ldyAbs _ | .staAbs _ | .adcAbs _ | .cpxAbs _ | .incAbs _ => true

end Sys2Proof
end

