-- ==== Sys2Proof/Decode.lean ====
section
/-! DEFINITION. From bytes to an instruction, and back. The opcode byte is looked up whole (`30_encoding.md` R71);
the bytes that follow it are its operands (R70, R72), the address low byte first (`20_memory.md` R58).
Total on any bytes: a byte that is no opcode, or too few bytes, is rejected by name. What depends on the parameter `OPC`
takes the table as its last argument, the default table where it is left out (R77). -/

namespace Sys2Proof

/-- The default of the parameter `OPC` (`30_encoding.md` R76; the byte values are the spec's general knowledge, log 1). -/
def Opcode.defaultTable : OpcodeTable
  | .txa => 0x8A#8
  | .tya => 0x98#8
  | .tax => 0xAA#8
  | .tay => 0xA8#8
  | .nop => 0xEA#8
  | .brk => 0x00#8
  | .ldaImm => 0xA9#8
  | .ldxImm => 0xA2#8
  | .ldyImm => 0xA0#8
  | .ldaAbs => 0xAD#8
  | .ldxAbs => 0xAE#8
  | .ldyAbs => 0xAC#8
  | .staAbs => 0x8D#8
  | .bneRel => 0xD0#8
  | .adcAbs => 0x6D#8
  | .cpxAbs => 0xEC#8
  | .incAbs => 0xEE#8
  | .sys => 0xFF#8

/-- The opcode byte of an instruction name (R76, R77). -/
def Opcode.byte (o : Opcode) (opc : OpcodeTable := Opcode.defaultTable) : Byte :=
  opc o

/-- The lookup of an opcode byte, none for the 238 unrecognized bytes (R71, R79). -/
def Opcode.ofByte (b : Byte) (opc : OpcodeTable := Opcode.defaultTable) : Option Opcode :=
  Opcode.all.find? (fun o => o.byte opc == b)

/-- The operand count of each name (R78). -/
def Opcode.operandCount : Opcode → Nat
  | .txa | .tya | .tax | .tay | .nop | .brk => 0
  | .ldaImm | .ldxImm | .ldyImm | .bneRel => 1
  | .ldaAbs | .ldxAbs | .ldyAbs | .staAbs | .adcAbs | .cpxAbs | .incAbs | .sys => 2

/-- The operand-count table: "static mapping from 8-bit opcode to operand count (0, 1, or 2)", absent for the other
bytes (R78). -/
def operandCount (b : Byte) (opc : OpcodeTable := Opcode.defaultTable) : Option Nat :=
  (Opcode.ofByte b opc).map Opcode.operandCount

/-- `HI :: LO`, the little-endian address of a low and a high byte (`20_memory.md` R55). -/
def assemble (hi lo : Byte) : Addr :=
  hi ++ lo

/-- The low-order byte of an address, which is stored first (`20_memory.md` R58). -/
def lowByte (a : Addr) : Byte :=
  a.extractLsb' 0 8

/-- The high-order byte of an address. -/
def highByte (a : Addr) : Byte :=
  a.extractLsb' 8 8

/-- The instruction of a name whose next two bytes are `b1` and `b2`, decoded when `X = x`: the runtime-arity override
gives `SYS` no operand at `X = 1` (R73, `40_pipeline.md` R95). -/
def instrOf (x : Byte) (o : Opcode) (b1 b2 : Byte) : Instr :=
  match o with
  | .txa => .txa
  | .tya => .tya
  | .tax => .tax
  | .tay => .tay
  | .nop => .nop
  | .brk => .brk
  | .ldaImm => .ldaImm b1
  | .ldxImm => .ldxImm b1
  | .ldyImm => .ldyImm b1
  | .ldaAbs => .ldaAbs (assemble b2 b1)
  | .ldxAbs => .ldxAbs (assemble b2 b1)
  | .ldyAbs => .ldyAbs (assemble b2 b1)
  | .staAbs => .staAbs (assemble b2 b1)
  | .bneRel => .bneRel b1
  | .adcAbs => .adcAbs (assemble b2 b1)
  | .cpxAbs => .cpxAbs (assemble b2 b1)
  | .incAbs => .incAbs (assemble b2 b1)
  | .sys => if x = 1#8 then .sys none else .sys (some (assemble b2 b1))

/-- The instruction whose opcode byte is `b0` and whose next two bytes are `b1` and `b2`, none where `b0` is
unrecognized (R71, R79). -/
def decode3 (x b0 b1 b2 : Byte) (opc : OpcodeTable := Opcode.defaultTable) : Option Instr :=
  (Opcode.ofByte b0 opc).map (fun o => instrOf x o b1 b2)

/-- The operand bytes of an instruction, in the order they are stored (R72). -/
def operandBytes : Instr → List Byte
  | .txa | .tya | .tax | .tay | .nop | .brk => []
  | .ldaImm b | .ldxImm b | .ldyImm b | .bneRel b => [b]
  | .ldaAbs a | .ldxAbs a | .ldyAbs a | .staAbs a | .adcAbs a | .cpxAbs a | .incAbs a => [lowByte a, highByte a]
  | .sys none => []
  | .sys (some a) => [lowByte a, highByte a]

/-- Why a sequence of bytes is no instruction. -/
inductive DecodeError where
  /-- The first byte is none of the 18 opcodes (R79). -/
  | unrecognized (b : Byte)
  /-- There are fewer bytes than the instruction has. -/
  | truncated
deriving DecidableEq, Repr

/-- Decodes the instruction at the head of a sequence of bytes, when `X = x`: the instruction and the bytes after it. -/
def decode (x : Byte) (bytes : List Byte) (opc : OpcodeTable := Opcode.defaultTable) :
    Except DecodeError (Instr × List Byte) :=
  match bytes with
  | [] => .error .truncated
  | b0 :: rest =>
    match decode3 x b0 (rest.getD 0 0#8) (rest.getD 1 0#8) opc with
    | none => .error (.unrecognized b0)
    | some i =>
      if rest.length < (operandBytes i).length then .error .truncated
      else .ok (i, rest.drop (operandBytes i).length)

/-- The bytes of an instruction: its opcode, then its operand bytes (R70, R72, R76). -/
def encode (i : Instr) (opc : OpcodeTable := Opcode.defaultTable) : List Byte :=
  i.opcode.byte opc :: operandBytes i

/-- Byte `k` of an instruction whose bits, numbered as `spec/opcode_table.json` numbers them, are the low `nbits` bits
of `w`, every bit above them 0. -/
def tableByte (nbits w k : Nat) : Byte :=
  BitVec.ofNat 8 (w % 2 ^ nbits / 2 ^ (8 * k))

/-- What the decoder reads from an instruction whose bits are `w`, at the value `X` has after reset (0; log 26). -/
def decodeTableWord (nbits w : Nat) : Option Instr :=
  decode3 0#8 (tableByte nbits w 0) (tableByte nbits w 1) (tableByte nbits w 2)

end Sys2Proof
end

