-- ==== Sys2Proof/Machine/State.lean ====
section
/-! DEFINITION. Everything the spec gives the machine, as plain data (`10_state.md` section 9), and its reset values
(`70_reset_and_hazards.md` R200). -/

namespace Sys2Proof.Machine

/-- The pipeline-stage enum (`10_state.md` R20): the stage the CPU performs at its next pulse. -/
inductive Stage where
  | fetch
  | decode1
  | decode2
  | execute1
  | execute2
  | writeBack
  | interruptCheck
deriving DecidableEq, Repr

/-- The four conditions of the error taxonomy (`60_exceptions.md` R170). None transfers control or saves state. -/
inductive Condition where
  | decodeFault
  | outOfRange
  | unimplementedMode
  | halt
deriving DecidableEq, Repr

/-- An interrupt-capable device, which is also its Interrupt record: constant attributes and the mutable output buffer
`BUF[d]` (`10_state.md` R27, R28; `60_exceptions.md` R178). A device's id is its place in the list of devices. -/
structure Device where
  irq : Nat
  /-- Lower is more urgent. -/
  prio : Int
  name : String
  buf : List Item
deriving DecidableEq, Repr

/-- An event of the output stream `OUT` (`00_scope.md` R8). -/
inductive OutEvent where
  /-- The print-integer path: `n` is the value of `Y`, unsigned (R161). -/
  | outInt (n : Nat)
  /-- The print-string path: the byte handed to the code table (R162, R163). -/
  | outChar (b : Byte)
  /-- The item emitted by InterruptCheck for device `d` (R187). -/
  | outIrq (d : Nat) (item : Item)
  /-- A diagnostic, with the instruction register (R171). -/
  | diag (c : Condition) (ir : Byte)
deriving DecidableEq, Repr

/-- A move of the Clock or of the environment once the Clock has started (`00_scope.md` R8): `TICK`, `POST(d, item)`,
`TERMINATE`. -/
inductive Event where
  | tick
  | post (d : Nat) (item : Item)
  | terminate
deriving DecidableEq, Repr

/-- The contents of `MEM`: (address, byte) pairs in canonical form, an unlisted address reading as 0x00 (R22; log 27). -/
abbrev Memory := List Host.Cell

/-- The machine's state (`10_state.md` section 9). -/
structure State where
  /-- `ACC`, R10. -/
  acc : Byte
  /-- `X`, R10. -/
  x : Byte
  /-- `Y`, R10. -/
  y : Byte
  /-- `Z`, R16. -/
  z : Bool
  /-- `PC`, R13. -/
  pc : Addr
  /-- `IR`, R19. -/
  ir : Byte
  /-- `STAGE`, R20. -/
  stage : Stage
  /-- `RUN`, R21. -/
  run : Bool
  /-- `MEM`, R22. -/
  mem : Memory
  /-- `AR`, R23. -/
  ar : Addr
  /-- `DR`, R24. -/
  dr : Byte
  /-- `PR`, R25. -/
  pr : Bool
  /-- `PW`, R25. -/
  pw : Bool
  /-- `LO`, R26. -/
  lo : Byte
  /-- `HI`, R26. -/
  hi : Byte
  /-- `DEVICES` with every `BUF[d]`, R27 and R28. -/
  devices : List Device
  /-- `IQ`, R29: the ids of the devices that posted. -/
  iq : List Nat
  /-- `OUT`, R30. -/
  out : List OutEvent
  /-- The model's own field (log 14): the moves made next, one a step, before whole instructions run on. It is how
  the environment's events and single ticks are interleaved (`60_exceptions.md` R186). -/
  agenda : List Event
deriving DecidableEq, Repr

/-- The reasons a step stops with a fault. -/
inductive Fault where
  /-- Raised by `step` and `perform` when `RUN = 0`: "no tick ever happens again" (`40_pipeline.md` R90, R107;
  `41_moves_nop_halt.md` R128). Safe: the hardware makes no further step either (log 25). -/
  | clockStopped
deriving DecidableEq, Repr

/-- The reasons the model gives no meaning. -/
inductive Refusal where
  /-- Raised by `exec` for an instruction without a meaning; no arm raises it. Safe. -/
  | notModelled (mnemonic : String)
  /-- Raised by `postEvent` for an id that no registered device has: the spec has no such event (R27, R184). Safe
  (log 29). -/
  | unknownDevice (d : Nat)
  /-- Raised by `flash` for an image that does not fit below address 65536: excluded by the precondition of
  `70_reset_and_hazards.md` R204 ("refused", D20). Safe (log 18). -/
  | flashDoesNotFit
deriving DecidableEq, Repr

/-- The keyboard as it is registered at start-up: the default of the parameter `DEVICES` (R7), its attributes
unstated (log 19), its buffer empty (R28). -/
def keyboardDevice : Device :=
  { irq := Config.kbdIrq, prio := Config.kbdPriority, name := Config.kbdName, buf := [] }

/-- The state when the Clock is started, before `FLASH` (`70_reset_and_hazards.md` R200). Memory's zeroes are stated by
the source; the other values are the spec's decision D7 (log 6). -/
def State.reset : State :=
  { acc := 0#8, x := 0#8, y := 0#8, z := false, pc := 0#16, ir := 0#8, stage := .fetch, run := true, mem := [], ar := 0#16, dr := 0#8,
    pr := false, pw := false, lo := 0#8, hi := 0#8, devices := [keyboardDevice], iq := [], out := [], agenda := [] }

end Sys2Proof.Machine
end

