-- ==== Sys2Proof/Machine/Ops.lean ====
section
/-! DEFINITION. The named operations over memory, the Memory component and the MMU (`20_memory.md`), the output stream
and the one synchronous condition that is reported (`60_exceptions.md` R171). -/

namespace Sys2Proof.Machine

/-! ### The array of cells -/

/-- The byte at a numeric address: the listed one, or 0x00 (R22, R41). -/
def readCell : Memory → Nat → Byte
  | [], _ => 0#8
  | (k, v) :: rest, a => if k = a then v else readCell rest a

/-- `MEM[a]`. -/
def Memory.read (m : Memory) (a : Addr) : Byte :=
  readCell m a.toNat

/-- Stores a byte at a numeric address, keeping the canonical form: a zero byte is not listed. -/
def writeCell : Memory → Nat → Byte → Memory
  | [], a, v => if v = 0#8 then [] else [(a, v)]
  | (k, w) :: rest, a, v =>
    if a < k then (if v = 0#8 then (k, w) :: rest else (a, v) :: (k, w) :: rest)
    else if a = k then (if v = 0#8 then rest else (a, v) :: rest)
    else (k, w) :: writeCell rest a v

/-- `MEM[a] <- v`. -/
def Memory.write (m : Memory) (a : Addr) (v : Byte) : Memory :=
  writeCell m a.toNat v

/-- Canonical from a lower bound on: addresses strictly rising and below 65536, no byte 0x00 listed. -/
def canonicalFrom : Nat → Memory → Bool
  | _, [] => true
  | low, (k, v) :: rest => decide (low ≤ k) && decide (k < 65536) && decide (v ≠ 0#8) && canonicalFrom (k + 1) rest

/-- The canonical form of a memory (log 27). -/
def Memory.wf (m : Memory) : Bool :=
  canonicalFrom 0 m

/-! ### The Memory component and the MMU, whose accessors are the same operations (R43 to R48, R53) -/

/-- `setAddress(addr)`: `AR <- addr` (R46). -/
def setAddress (a : Addr) (s : State) : State :=
  { s with ar := a }

/-- `setData(byte)`: `DR <- byte` (R46). -/
def setData (b : Byte) (s : State) : State :=
  { s with dr := b }

/-- `setPendingRead(b)`: `PR <- b` (R46). -/
def setPendingRead (b : Bool) (s : State) : State :=
  { s with pr := b }

/-- `setPendingWrite(b)`: `PW <- b` (R46). -/
def setPendingWrite (b : Bool) (s : State) : State :=
  { s with pw := b }

/-- The getter of `AR` (R46). -/
def getAddress (s : State) : Addr :=
  s.ar

/-- The getter of `DR` (R46). -/
def getData (s : State) : Byte :=
  s.dr

/-- The getter of `PR` (R46). -/
def getPendingRead (s : State) : Bool :=
  s.pr

/-- The getter of `PW` (R46). -/
def getPendingWrite (s : State) : Bool :=
  s.pw

/-- `read()`: `DR <- MEM[AR]` (R44). -/
def readNow (s : State) : State :=
  { s with dr := s.mem.read s.ar }

/-- `write()`: `MEM[AR] <- DR` (R45). -/
def writeNow (s : State) : State :=
  { s with mem := s.mem.write s.ar s.dr }

/-- The Memory's `reset()`: every cell 0x00, nothing else changed (R47). -/
def memoryReset (s : State) : State :=
  { s with mem := [] }

/-- The first half of the Memory's pulse: an honoured pending write (R48). -/
def honourWrite (s : State) : State :=
  if s.pw then setPendingWrite false (writeNow s) else s

/-- The second half of the Memory's pulse: an honoured pending read (R48). -/
def honourRead (s : State) : State :=
  if s.pr then setPendingRead false (readNow s) else s

/-- The Memory's pulse: write, then read (R48). -/
def memoryPulse (s : State) : State :=
  honourRead (honourWrite s)

/-- `assembleLittleEndian()` (R55). -/
def assembleLittleEndian (s : State) : Addr :=
  assemble s.hi s.lo

/-- `setAddress(low, high)`: stores both bytes, then commits the address (R54). -/
def setAddressPair (low high : Byte) (s : State) : State :=
  let t := { s with lo := low, hi := high }
  setAddress (assembleLittleEndian t) t

/-- `readImmediate()`: the same as `read()` (R56; log 31). -/
def readImmediate (s : State) : State :=
  readNow s

/-- `writeImmediate(addr, byte)`: at once, without `PW` (R56). -/
def writeImmediate (a : Addr) (b : Byte) (s : State) : State :=
  writeNow (setData b (setAddress a s))

/-- Writes bytes at consecutive addresses with `writeImmediate` (R204). -/
def flashBytes : Addr → List Byte → State → State
  | _, [], s => s
  | a, b :: rest, s => flashBytes (a + 1#16) rest (writeImmediate a b s)

/-- `FLASH(start, bytes)`: the program load, before the first tick, of an image that fits (R204). -/
def flash (start : Addr) (bytes : List Byte) (s : State) : Host.Outcome State Fault Refusal :=
  if start.toNat + bytes.length ≤ 65536 then .next (flashBytes start bytes s) else .refused .flashDoesNotFit

/-- The program load at the default address: `FLASH(LOAD_ADDRESS, bytes)` (`00_scope.md` R7, `30_encoding.md` R81). -/
def loadProgram (bytes : List Byte) (s : State) : Host.Outcome State Fault Refusal :=
  flash Config.loadAddress bytes s

/-- Stores a list of bytes at consecutive addresses of a memory, wrapping after 0xFFFF, and changes nothing else: how
`withFetchWord` places an instruction. -/
def placeBytes : Addr → List Byte → Memory → Memory
  | _, [], m => m
  | a, b :: rest, m => placeBytes (a + 1#16) rest (m.write a b)

/-! ### Output and the reported condition -/

/-- `Emit(e)`: appends an event to `OUT` (`00_scope.md` section 6, R30). -/
def emit (e : OutEvent) (s : State) : State :=
  { s with out := s.out ++ [e] }

/-- `raise DecodeFault(ir)`: the diagnostic is appended and execution continues; no control transfer, no state saved,
nothing to return from (R170, R171, R191). The machine's only synchronous exception. -/
def raiseDecodeFault (s : State) : State :=
  emit (.diag .decodeFault s.ir) s

/-- `STAGE <- InterruptCheck`, where an execute path that does not return early goes (`40_pipeline.md` R98). -/
def retire (s : State) : State :=
  { s with stage := .interruptCheck }

end Sys2Proof.Machine
end

