-- ==== Sys2Proof/Machine/Flags.lean ====
section
/-! DEFINITION. The one flag, `Z` (`10_state.md` R16 to R18), and the machine's arithmetic
(`44_arithmetic_compare.md` R154, `43_branch.md` R141). There is no carry, negative or overflow flag. -/

namespace Sys2Proof.Machine

/-- `CPX`'s effect on `Z`: set when the bytes are equal, otherwise left as it is; never cleared (R17, R151). -/
def latchZero (equal : Bool) (s : State) : State :=
  { s with z := s.z || equal }

/-- The 8-bit sum, modulo 256, without carry in or out (R150, R154; `WRAP8`, log 3). -/
def add8 (a b : Byte) : Byte :=
  a + b

/-- `TC(b) = (b XOR 0xFF) + 1`, an integer 1 to 256, not truncated to 8 bits (R141; log 5). -/
def twosComplementMagnitude (b : Byte) : Nat :=
  (b ^^^ 0xFF#8).toNat + 1

/-- A taken branch's target: `PC - TC(rel)` modulo 65536 (R140, R143; `WRAP16`, log 4). -/
def branchTarget (pc : Addr) (rel : Byte) : Addr :=
  pc - BitVec.ofNat 16 (twosComplementMagnitude rel)

end Sys2Proof.Machine
end

