-- ==== Sys2Proof/Machine/Operands.lean ====
section
/-! DEFINITION. Fetching and decoding: how each operand form reaches `DR`, `LO`, `HI` and `AR`
(`40_pipeline.md` R93 to R97, `30_encoding.md` R72 to R74, `42_loads_stores.md` R130).

Each stage is written once, over the byte it consumes. The pipeline (Pipeline.lean) gives it the byte at `PC`; an
instruction's meaning gives it the instruction's own byte. A *form* is the ticks of an instruction before its
`Execute1`, each followed by the Memory's pulse of the same tick. -/

namespace Sys2Proof.Machine

/-- The byte at `PC`, which `NextByte()` reads. -/
def byteAtPc (s : State) : Byte :=
  s.mem.read s.pc

/-- `NextByte()` where the byte read is `b`: `AR <- PC; PC <- PC + 1; DR <- b` (R93; the wrap at 0xFFFF is log 4). -/
def consume (b : Byte) (s : State) : State :=
  { s with ar := s.pc, pc := s.pc + 1#16, dr := b }

/-- `NextByte()` (R93). -/
def nextByte (s : State) : State :=
  consume (byteAtPc s) s

/-- `Fetch` where the opcode byte is `b` (R94). -/
def fetchStage (b : Byte) (s : State) : State :=
  { consume b s with ir := b, stage := .decode1 }

/-- `Decode1` that reads no byte: count 0, count absent, or the override of `SYS` (R95, R96). -/
def decodeNone (s : State) : State :=
  { s with stage := .execute1 }

/-- `Decode1` of a 1-operand opcode whose operand byte is `b` (R95). -/
def decodeOne (b : Byte) (s : State) : State :=
  { consume b s with stage := .execute1 }

/-- `Decode1` of a 2-operand opcode whose low address byte is `b` (R95). -/
def decodeLow (b : Byte) (s : State) : State :=
  { consume b s with lo := b, stage := .decode2 }

/-- `Decode2` whose high address byte is `b`: the effective address goes to `AR` and its cell to `DR` (R97). -/
def decodeHigh (b : Byte) (s : State) : State :=
  let t := { consume b s with hi := b, stage := .execute1 }
  readNow (setAddress (assembleLittleEndian t) t)

/-- The ticks `Fetch` and `Decode1` of a 1-byte instruction whose opcode byte is `op` (R72 `IMP`, R120). -/
def impliedForm (op : Byte) (s : State) : State :=
  memoryPulse (decodeNone (memoryPulse (fetchStage op s)))

/-- The ticks `Fetch` and `Decode1` of a 2-byte instruction (R72 `IMM` and `REL`, R130). -/
def immediateForm (op operand : Byte) (s : State) : State :=
  memoryPulse (decodeOne operand (memoryPulse (fetchStage op s)))

/-- The ticks `Fetch`, `Decode1`, `Decode2` of a 3-byte instruction (R72 `ABS`, R130). -/
def absoluteForm (op : Byte) (addr : Addr) (s : State) : State :=
  memoryPulse (decodeHigh (highByte addr) (memoryPulse (decodeLow (lowByte addr) (memoryPulse (fetchStage op s)))))

/-- The bytes at `PC`, `PC + 1`, `PC + 2` (addresses wrap, R59, R70). -/
def fetchedBytes (s : State) : List Byte :=
  [s.mem.read s.pc, s.mem.read (s.pc + 1#16), s.mem.read (s.pc + 2#16)]

/-- The instruction whose bytes stand at `PC`, at the current `X`; none where the opcode byte is unrecognized. -/
def instructionAtPc (s : State) : Option Instr :=
  decode3 s.x (s.mem.read s.pc) (s.mem.read (s.pc + 1#16)) (s.mem.read (s.pc + 2#16))

end Sys2Proof.Machine
end

