-- ==== Sys2Proof/Machine/Arithmetic.lean ====
section
/-! DEFINITION. Add, compare and increment (`44_arithmetic_compare.md`), and the two stages only `INC` reaches
(`40_pipeline.md` R99, R100). -/

namespace Sys2Proof.Machine

/-- `Execute1` of `ADC addr`: `ACC <- ACC + DR`, no flag (R150). -/
def adcAbsExecute1 (s : State) : State :=
  retire { s with acc := add8 s.acc s.dr }

/-- `Execute1` of `CPX addr`: `Z <- 1` if `DR = X`, otherwise `Z` as it was (R151). -/
def cpxAbsExecute1 (s : State) : State :=
  retire (latchZero (s.dr == s.x) s)

/-- `Execute1` of `INC addr`: `ACC <- DR`, on to `Execute2` (R153). -/
def incAbsExecute1 (s : State) : State :=
  { s with acc := s.dr, stage := .execute2 }

/-- `Execute2`: `ACC <- ACC + 1`, on to `WriteBack`; with any other opcode in `IR`, which no run reaches, straight to
`InterruptCheck` (R99; log 22). -/
def execute2Stage (s : State) (opc : OpcodeTable := Opcode.defaultTable) : State :=
  if s.ir = Opcode.incAbs.byte opc then { s with acc := add8 s.acc 1#8, stage := .writeBack } else retire s

/-- `WriteBack`: `DR <- ACC; PW <- 1`; the Memory's pulse of the same tick stores (R100). -/
def writeBackStage (s : State) : State :=
  retire (setPendingWrite true (setData s.acc s))

/-- `ADC addr` (R130, R150). -/
def execAdcAbs (addr : Addr) (s : State) : Host.Outcome State Fault Refusal :=
  .next (memoryPulse (adcAbsExecute1 (absoluteForm Opcode.adcAbs.byte addr s)))

/-- `CPX addr` (R130, R151). -/
def execCpxAbs (addr : Addr) (s : State) : Host.Outcome State Fault Refusal :=
  .next (memoryPulse (cpxAbsExecute1 (absoluteForm Opcode.cpxAbs.byte addr s)))

/-- `INC addr`: `Execute1`, `Execute2`, `WriteBack`, each with its tick's Memory pulse (R153). -/
def execIncAbs (addr : Addr) (s : State) : Host.Outcome State Fault Refusal :=
  .next (memoryPulse (writeBackStage (memoryPulse (execute2Stage
    (memoryPulse (incAbsExecute1 (absoluteForm Opcode.incAbs.byte addr s)))))))

end Sys2Proof.Machine
end

