-- ==== Sys2Proof/Machine/Branch.lean ====
section
/-! DEFINITION. The one control transfer, `BNE` (`43_branch.md`): backward only. -/

namespace Sys2Proof.Machine

/-- `Execute1` of `BNE rel`: if `Z = 0`, `PC <- PC - TC(DR)` (R140). -/
def bneRelExecute1 (s : State) : State :=
  retire { s with pc := if s.z then s.pc else branchTarget s.pc s.dr }

/-- `BNE rel` (R140). -/
def execBneRel (rel : Byte) (s : State) : Host.Outcome State Fault Refusal :=
  .next (memoryPulse (bneRelExecute1 (immediateForm Opcode.bneRel.byte rel s)))

end Sys2Proof.Machine
end

