-- ==== Sys2Proof/Machine/Interrupts.lean ====
section
/-! DEFINITION. The Interrupt Controller, the keyboard and the `InterruptCheck` stage (`60_exceptions.md`). Taking an
interrupt emits one buffered item and empties the queue: no vector, no saved state, no handler, no return. -/

namespace Sys2Proof.Machine

/-- `prio(d)`, lower is more urgent (R27). An id that no device has, which no run queues, counts as 0 (log 29). -/
def prioOf (devices : List Device) (d : Nat) : Int :=
  (devices[d]?).elim 0 Device.prio

/-- `BUF[d]` (R28); empty for an id that no device has (log 29). -/
def bufOf (devices : List Device) (d : Nat) : List Item :=
  (devices[d]?).elim [] Device.buf

/-- `BUF[d] <- items`. -/
def setBuf (devices : List Device) (d : Nat) (items : List Item) : List Device :=
  devices.modify d (fun dev => { dev with buf := items })

/-- Inserts an id before the first one of the same or a less urgent priority. -/
def insertByPrio (devices : List Device) (d : Nat) : List Nat → List Nat
  | [] => [d]
  | e :: rest =>
    if prioOf devices d ≤ prioOf devices e then d :: e :: rest else e :: insertByPrio devices d rest

/-- `stable_sort_by_prio`: ascending priority, equal priorities in the order they stood (R180). -/
def sortByPrio (devices : List Device) : List Nat → List Nat
  | [] => []
  | d :: rest => insertByPrio devices d (sortByPrio devices rest)

/-- `registerDevice(device)`: append-only, with no effect on any rule; before the Clock starts (R179, R203). -/
def registerDevice (dev : Device) (s : State) : State :=
  { s with devices := s.devices ++ [dev] }

/-- `acceptInterrupt(d)`: append to the queue and re-sort (R180). -/
def acceptInterrupt (d : Nat) (s : State) : State :=
  { s with iq := sortByPrio s.devices (s.iq ++ [d]) }

/-- `highestPriority()`: the first entry of the queue, which stays in it (R181; log 28). -/
def highestPriority (s : State) : Option Nat :=
  s.iq.head?

/-- `clearOutputBuffer()`: empties the queue, and no buffer (R182). -/
def clearOutputBuffer (s : State) : State :=
  { s with iq := [] }

/-- `BUF[d] <- BUF[d] ++ [item]`, the first half of `POST` (R184). -/
def bufferItem (d : Nat) (item : Item) (s : State) : State :=
  { s with devices := setBuf s.devices d (bufOf s.devices d ++ [item]) }

/-- `POST(d, item)` by a registered device: buffer, then queue, as one unit (R184). -/
def postEvent (d : Nat) (item : Item) (s : State) : Host.Outcome State Fault Refusal :=
  if d < s.devices.length then .next (acceptInterrupt d (bufferItem d item s)) else .refused (.unknownDevice d)

/-- `TERMINATE`: `RUN <- 0` and nothing else (R185; log 15). -/
def terminateEvent (s : State) : State :=
  { s with run := false }

/-- The keyboard's id: the first device registered (log 19). -/
def keyboardId : Nat := 0

/-- The control byte that terminates instead of buffering: Ctrl-C (`00_scope.md` R7 `KBD_TERMINATE`; log 20). -/
def kbdTerminate : Byte := 0x03#8

/-- A key received by the keyboard: the control byte terminates, any other is posted (R184, R185). -/
def keyPress (b : Byte) (s : State) : Host.Outcome State Fault Refusal :=
  if b = kbdTerminate then .next (terminateEvent s) else postEvent keyboardId b s

/-- What `InterruptCheck` does before `STAGE <- Fetch`: with a pending entry whose device has buffered output, emit the
first item, remove it, and empty the queue; otherwise nothing (R187; log 12). -/
def serviceInterrupt (s : State) : State :=
  match highestPriority s with
  | none => s
  | some d =>
    match bufOf s.devices d with
    | [] => s
    | item :: rest =>
      clearOutputBuffer { emit (.outIrq d item) s with devices := setBuf s.devices d rest }

/-- The `InterruptCheck` stage (R101, R187). -/
def interruptCheckStage (s : State) : State :=
  { serviceInterrupt s with stage := .fetch }

end Sys2Proof.Machine
end

