-- ==== Sys2Proof/Machine/LoadStore.lean ====
section
/-! DEFINITION. Loads and the store (`42_loads_stores.md`). `Execute1` of a load copies `DR`, which `Decode1` (immediate)
or `Decode2` (absolute) has loaded; no flag is touched. -/

namespace Sys2Proof.Machine

/-- `Execute1` of `LDA #imm`: `ACC <- DR` (R131). -/
def ldaImmExecute1 (s : State) : State :=
  retire { s with acc := s.dr }

/-- `Execute1` of `LDX #imm`: `X <- DR` (R132). -/
def ldxImmExecute1 (s : State) : State :=
  retire { s with x := s.dr }

/-- `Execute1` of `LDY #imm`: `Y <- DR` (R133). -/
def ldyImmExecute1 (s : State) : State :=
  retire { s with y := s.dr }

/-- `Execute1` of `LDA addr`: `ACC <- DR` (R134). -/
def ldaAbsExecute1 (s : State) : State :=
  retire { s with acc := s.dr }

/-- `Execute1` of `LDX addr`: `X <- DR` (R135). -/
def ldxAbsExecute1 (s : State) : State :=
  retire { s with x := s.dr }

/-- `Execute1` of `LDY addr`: `Y <- DR` (R136). -/
def ldyAbsExecute1 (s : State) : State :=
  retire { s with y := s.dr }

/-- `Execute1` of `STA addr`: `DR <- ACC; PW <- 1`; the Memory's pulse of the same tick stores (R137). -/
def staAbsExecute1 (s : State) : State :=
  retire (setPendingWrite true (setData s.acc s))

/-- `LDA #imm` (R130, R131). -/
def execLdaImm (imm : Byte) (s : State) : Host.Outcome State Fault Refusal :=
  .next (memoryPulse (ldaImmExecute1 (immediateForm Opcode.ldaImm.byte imm s)))

/-- `LDX #imm` (R130, R132). -/
def execLdxImm (imm : Byte) (s : State) : Host.Outcome State Fault Refusal :=
  .next (memoryPulse (ldxImmExecute1 (immediateForm Opcode.ldxImm.byte imm s)))

/-- `LDY #imm` (R130, R133). -/
def execLdyImm (imm : Byte) (s : State) : Host.Outcome State Fault Refusal :=
  .next (memoryPulse (ldyImmExecute1 (immediateForm Opcode.ldyImm.byte imm s)))

/-- `LDA addr` (R130, R134). -/
def execLdaAbs (addr : Addr) (s : State) : Host.Outcome State Fault Refusal :=
  .next (memoryPulse (ldaAbsExecute1 (absoluteForm Opcode.ldaAbs.byte addr s)))

/-- `LDX addr` (R130, R135). -/
def execLdxAbs (addr : Addr) (s : State) : Host.Outcome State Fault Refusal :=
  .next (memoryPulse (ldxAbsExecute1 (absoluteForm Opcode.ldxAbs.byte addr s)))

/-- `LDY addr` (R130, R136). -/
def execLdyAbs (addr : Addr) (s : State) : Host.Outcome State Fault Refusal :=
  .next (memoryPulse (ldyAbsExecute1 (absoluteForm Opcode.ldyAbs.byte addr s)))

/-- `STA addr` (R130, R137). -/
def execStaAbs (addr : Addr) (s : State) : Host.Outcome State Fault Refusal :=
  .next (memoryPulse (staAbsExecute1 (absoluteForm Opcode.staAbs.byte addr s)))

end Sys2Proof.Machine
end

