-- ==== Sys2Proof/Machine/Moves.lean ====
section
/-! DEFINITION. Register moves, no-op and halt (`41_moves_nop_halt.md`): for each instruction its `Execute1` and its
meaning, the whole instruction but for the `InterruptCheck` that ends it. -/

namespace Sys2Proof.Machine

/-- `Execute1` of `TXA`: `ACC <- X` (R121). -/
def txaExecute1 (s : State) : State :=
  retire { s with acc := s.x }

/-- `Execute1` of `TYA`: `ACC <- Y` (R122). -/
def tyaExecute1 (s : State) : State :=
  retire { s with acc := s.y }

/-- `Execute1` of `TAX`: `X <- ACC` (R123). -/
def taxExecute1 (s : State) : State :=
  retire { s with x := s.acc }

/-- `Execute1` of `TAY`: `Y <- ACC` (R124). -/
def tayExecute1 (s : State) : State :=
  retire { s with y := s.acc }

/-- `Execute1` of `NOP`: nothing (R125). -/
def nopExecute1 (s : State) : State :=
  retire s

/-- `Execute1` of `BRK`: `RUN <- 0`; `STAGE` is left by the general rule (R126, R127; log 16). -/
def brkExecute1 (s : State) : State :=
  retire { s with run := false }

/-- `TXA` (R120, R121). -/
def execTxa (s : State) : Host.Outcome State Fault Refusal :=
  .next (memoryPulse (txaExecute1 (impliedForm Opcode.txa.byte s)))

/-- `TYA` (R120, R122). -/
def execTya (s : State) : Host.Outcome State Fault Refusal :=
  .next (memoryPulse (tyaExecute1 (impliedForm Opcode.tya.byte s)))

/-- `TAX` (R120, R123). -/
def execTax (s : State) : Host.Outcome State Fault Refusal :=
  .next (memoryPulse (taxExecute1 (impliedForm Opcode.tax.byte s)))

/-- `TAY` (R120, R124). -/
def execTay (s : State) : Host.Outcome State Fault Refusal :=
  .next (memoryPulse (tayExecute1 (impliedForm Opcode.tay.byte s)))

/-- `NOP` (R120, R125). -/
def execNop (s : State) : Host.Outcome State Fault Refusal :=
  .next (memoryPulse (nopExecute1 (impliedForm Opcode.nop.byte s)))

/-- `BRK` (R120, R126). -/
def execBrk (s : State) : Host.Outcome State Fault Refusal :=
  .next (memoryPulse (brkExecute1 (impliedForm Opcode.brk.byte s)))

end Sys2Proof.Machine
end

