-- ==== Sys2Proof/Machine/SystemCall.lean ====
section
/-! DEFINITION. The system call and the unrecognized opcodes (`45_system_call.md`), and the condition an `Execute1` tick
raises (`60_exceptions.md` R170). -/

namespace Sys2Proof.Machine

/-- What a tick of string streaming does with the byte it has read: a zero byte ends the instruction; any other is
emitted, `AR` moves on and `Execute1` is entered again (R163). -/
def streamByte (s : State) : State :=
  if s.dr = 0#8 then retire s
  else setAddress (s.ar + 1#16) (emit (.outChar s.dr) { s with stage := .execute1 })

/-- One tick of string streaming: `DR <- MEM[AR]`, then that byte (R163; the order within the tick is log 9). -/
def streamTick (s : State) : State :=
  streamByte (readNow s)

/-- `Execute1` of `SYS`: the value of `X` selects the sub-mode (R160): 1 prints `Y` (R161), 3 streams a string (R163),
2 and every other value do nothing (R164, R165; log 10). -/
def sysExecute1 (s : State) : State :=
  if s.x = 1#8 then retire (emit (.outInt s.y.toNat) s)
  else if s.x = 3#8 then streamTick s
  else retire s

/-- `Execute1` of an opcode byte that is no instruction: the diagnostic, nothing else (R166). -/
def unrecognizedExecute1 (s : State) : State :=
  retire (raiseDecodeFault s)

/-- The address a `SYS` consumes when `X` is not 1: the operand it is written with, or, where it is written without
one, the two bytes that follow it in memory, which the pipeline consumes all the same (R73, R210; log 26). -/
def sysAddress (operand : Option Addr) (s : State) : Addr :=
  operand.getD (assemble (s.mem.read (s.pc + 2#16)) (s.mem.read (s.pc + 1#16)))

/-- `SYS`: one byte long when `X = 1`, three otherwise, whatever it is written with (R73, R160). Of a string it makes
the first `Execute1` tick; a further tick is made by each later step (log 23). -/
def execSys (operand : Option Addr) (s : State) : Host.Outcome State Fault Refusal :=
  .next (memoryPulse (sysExecute1
    (if s.x = 1#8 then impliedForm Opcode.sys.byte s else absoluteForm Opcode.sys.byte (sysAddress operand s) s)))

/-- The meaning of an unrecognized opcode byte `b`: one byte consumed, a diagnostic, execution goes on (R79, R166). -/
def execUnrecognized (b : Byte) (s : State) : State :=
  memoryPulse (unrecognizedExecute1 (impliedForm b s))

/-- The condition that the `Execute1` tick of a state raises, if any: at most one (R170, R176). OutOfRange is never
raised (R173). -/
def raisedCondition (s : State) (opc : OpcodeTable := Opcode.defaultTable) : Option Condition :=
  match Opcode.ofByte s.ir opc with
  | none => some .decodeFault
  | some .brk => some .halt
  | some .sys => if s.x = 2#8 then some .unimplementedMode else none
  | some _ => none

end Sys2Proof.Machine
end

