-- ==== Sys2Proof/Machine/Pipeline.lean ====
section
/-! DEFINITION. The clock tick and the pipeline state machine (`40_pipeline.md`): one stage per tick, CPU then Memory,
and the events of the environment between ticks (`60_exceptions.md` R186). The tick and the moves take the parameter
`OPC` as their last argument, the default table where it is left out (`30_encoding.md` R77). -/

namespace Sys2Proof.Machine

/-- `Decode1`: act on the operand count of `IR` (R95, R96). -/
def decode1Stage (s : State) (opc : OpcodeTable := Opcode.defaultTable) : State :=
  match operandCount s.ir opc with
  | none => decodeNone s
  | some 0 => decodeNone s
  | some 1 => decodeOne (byteAtPc s) s
  | some _ =>
    if s.ir = Opcode.sys.byte opc ∧ s.x = 1#8 then decodeNone s else decodeLow (byteAtPc s) s

/-- `Execute1`: dispatch on `IR` (R98). -/
def execute1Stage (s : State) (opc : OpcodeTable := Opcode.defaultTable) : State :=
  match Opcode.ofByte s.ir opc with
  | none => unrecognizedExecute1 s
  | some .txa => txaExecute1 s
  | some .tya => tyaExecute1 s
  | some .tax => taxExecute1 s
  | some .tay => tayExecute1 s
  | some .nop => nopExecute1 s
  | some .brk => brkExecute1 s
  | some .ldaImm => ldaImmExecute1 s
  | some .ldxImm => ldxImmExecute1 s
  | some .ldyImm => ldyImmExecute1 s
  | some .ldaAbs => ldaAbsExecute1 s
  | some .ldxAbs => ldxAbsExecute1 s
  | some .ldyAbs => ldyAbsExecute1 s
  | some .staAbs => staAbsExecute1 s
  | some .bneRel => bneRelExecute1 s
  | some .adcAbs => adcAbsExecute1 s
  | some .cpxAbs => cpxAbsExecute1 s
  | some .incAbs => incAbsExecute1 s
  | some .sys => sysExecute1 s

/-- The CPU's pulse: exactly the one stage named by `STAGE` (R92, R104). -/
def cpuPulse (s : State) (opc : OpcodeTable := Opcode.defaultTable) : State :=
  match s.stage with
  | .fetch => fetchStage (byteAtPc s) s
  | .decode1 => decode1Stage s opc
  | .decode2 => decodeHigh (byteAtPc s) s
  | .execute1 => execute1Stage s opc
  | .execute2 => execute2Stage s opc
  | .writeBack => writeBackStage s
  | .interruptCheck => interruptCheckStage s

/-- One listener's part of a tick. -/
def pulse (l : Listener) (s : State) (opc : OpcodeTable := Opcode.defaultTable) : State :=
  match l with
  | .cpu => cpuPulse s opc
  | .memory => memoryPulse s

/-- The registered listeners, in registration order (R91, `10_state.md` R31; log 17). -/
def listeners : List Listener :=
  [.cpu, .memory]

/-- The pulses of one tick, in registration order (R90). A tick happens only while `RUN = 1`: `step` and `perform`
test that. -/
def tick (s : State) (opc : OpcodeTable := Opcode.defaultTable) : State :=
  listeners.foldl (fun t l => pulse l t opc) s

/-- One move of the Clock or of the environment, between ticks (R90, R186). Once `RUN = 0` nothing changes any more
(R107, R128; log 25). -/
def perform (e : Event) (s : State) (opc : OpcodeTable := Opcode.defaultTable) : Host.Outcome State Fault Refusal :=
  if s.run then
    match e with
    | .tick => .next (tick s opc)
    | .post d item => postEvent d item s
    | .terminate => .next (terminateEvent s)
  else .fault .clockStopped

/-- A sequence of moves, up to the first that stops. -/
def performAll (es : List Event) (s : State) (opc : OpcodeTable := Opcode.defaultTable) :
    Host.Outcome State Fault Refusal :=
  match es with
  | [] => .next s
  | e :: rest =>
    match perform e s opc with
    | .next t => performAll rest t opc
    | .fault f => .fault f
    | .refused r => .refused r

/-- The end of an instruction: the `InterruptCheck` tick, where the machine still runs and its next stage is that one
(R101, R102, R106). -/
def endInstruction (s : State) : State :=
  if s.run = true ∧ s.stage = .interruptCheck then tick s else s

/-- A meaning's answer, followed by the end of the instruction. -/
def thenEnd (o : Host.Outcome State Fault Refusal) : Host.Outcome State Fault Refusal :=
  match o with
  | .next t => .next (endInstruction t)
  | .fault f => .fault f
  | .refused r => .refused r

end Sys2Proof.Machine
end

