-- ==== Sys2Proof/Machine/Dispatch.lean ====
section
/-! DEFINITION. One arm per instruction (`30_encoding.md` R76): the meaning of each, from its `Fetch` tick to its last
execute or write-back tick. -/

namespace Sys2Proof.Machine

def exec (i : Instr) (s : State) : Host.Outcome State Fault Refusal :=
  match i with
  | .txa => Sys2Proof.Machine.execTxa s
  | .tya => Sys2Proof.Machine.execTya s
  | .tax => Sys2Proof.Machine.execTax s
  | .tay => Sys2Proof.Machine.execTay s
  | .nop => Sys2Proof.Machine.execNop s
  | .brk => Sys2Proof.Machine.execBrk s
  | .ldaImm imm => Sys2Proof.Machine.execLdaImm imm s
  | .ldxImm imm => Sys2Proof.Machine.execLdxImm imm s
  | .ldyImm imm => Sys2Proof.Machine.execLdyImm imm s
  | .ldaAbs addr => Sys2Proof.Machine.execLdaAbs addr s
  | .ldxAbs addr => Sys2Proof.Machine.execLdxAbs addr s
  | .ldyAbs addr => Sys2Proof.Machine.execLdyAbs addr s
  | .staAbs addr => Sys2Proof.Machine.execStaAbs addr s
  | .bneRel rel => Sys2Proof.Machine.execBneRel rel s
  | .adcAbs addr => Sys2Proof.Machine.execAdcAbs addr s
  | .cpxAbs addr => Sys2Proof.Machine.execCpxAbs addr s
  | .incAbs addr => Sys2Proof.Machine.execIncAbs addr s
  | .sys operand => Sys2Proof.Machine.execSys operand s

end Sys2Proof.Machine
end

