-- ==== Sys2Proof/Machine/Run.lean ====
section
/-! DEFINITION. What one step of the machine is (log 23): with something on the agenda, that move; otherwise a whole
instruction from its `Fetch` on, or one tick where an instruction is in progress. -/

namespace Sys2Proof.Machine

/-- One step while the Clock runs and nothing is on the agenda: from `Fetch`, the instruction whose bytes stand at `PC`
(`40_pipeline.md` R92 to R106), or the diagnostic of an unrecognized opcode (R166); in the middle of an instruction, its
next tick. -/
def runStep (s : State) : Host.Outcome State Fault Refusal :=
  match s.stage with
  | .fetch =>
    match instructionAtPc s with
    | some i => thenEnd (exec i s)
    | none => .next (endInstruction (execUnrecognized (byteAtPc s) s))
  | .decode1 | .decode2 | .execute1 | .execute2 | .writeBack | .interruptCheck => .next (tick s)

/-- One step: the first move of the agenda, if there is one (`60_exceptions.md` R186), else `runStep`; none once
`RUN = 0` (`40_pipeline.md` R90, R107). -/
def advance (s : State) : Host.Outcome State Fault Refusal :=
  if s.run then
    match s.agenda with
    | e :: rest => perform e { s with agenda := rest }
    | [] => runStep s
  else .fault .clockStopped

/-- The state with an instruction's three bytes (those beyond `nbits` zero) stored at `PC`, from where the very next
step fetches it: the Clock running, `STAGE` at `Fetch`, nothing on the agenda, as they are after reset (log 24). -/
def placeInstruction (nbits w : Nat) (s : State) : State :=
  { s with
    mem := placeBytes s.pc [tableByte nbits w 0, tableByte nbits w 1, tableByte nbits w 2] s.mem,
    stage := .fetch, run := true, agenda := [] }

end Sys2Proof.Machine
end

