-- ==== Sys2Proof/Machine/Step.lean ====
section
/-! DEFINITION. The step of the machine, and an instruction placed where the step fetches. Both are defined in Run.lean. -/

namespace Sys2Proof.Machine

/-- One step (`40_pipeline.md` R90 to R107; log 23). -/
def step (s : State) : Host.Outcome State Fault Refusal :=
  advance s

/-- The state whose very next step fetches and runs the instruction of the bits `w` (log 24). -/
def State.withFetchWord (s : State) (nbits w : Nat) : State :=
  placeInstruction nbits w s

end Sys2Proof.Machine
end

