-- ==== Sys2Proof/Safety.lean ====
section
/-! DEFINITION. The terms claims are made in: the invariant of the machine at tick boundaries, the states the Clock
starts from, the state an instruction's pipeline path leaves (`41_moves_nop_halt.md` R120, `42_loads_stores.md` R130),
what a program can observe, and a safe run. -/

namespace Sys2Proof.Machine

/-- No access is pending: true "at every tick boundary" (`10_state.md` R25). -/
abbrev Quiet (s : State) : Prop :=
  s.pw = false ∧ s.pr = false

/-- Every queued id is a registered device with buffered output ("every `POST` buffers before it queues, and `IQ` is
emptied whenever a buffer is popped", `95_test_vectors.md` Q6). -/
abbrev QueueBuffered (s : State) : Prop :=
  ∀ d ∈ s.iq, d < s.devices.length ∧ bufOf s.devices d ≠ []

/-- The queue is sorted ascending by priority (`10_state.md` R29). -/
abbrev QueueSorted (s : State) : Prop :=
  s.iq.Pairwise (fun d e => prioOf s.devices d ≤ prioOf s.devices e)

/-- `Decode2` is reached only for a 2-operand opcode, `Execute2` and `WriteBack` only for `INC`, and from `INC`'s
`Execute1` to its `WriteBack` `AR` holds the assembled address (`40_pipeline.md` R97, R99, R100). -/
abbrev StageConsistent (s : State) : Prop :=
  (s.stage = .decode2 → operandCount s.ir = some 2) ∧
  (s.stage = .execute2 ∨ s.stage = .writeBack → s.ir = Opcode.incAbs.byte) ∧
  (s.ir = Opcode.incAbs.byte → (s.stage = .execute1 ∨ s.stage = .execute2 ∨ s.stage = .writeBack) →
    s.ar = assemble s.hi s.lo)

/-- The invariant of the machine at every tick boundary. -/
structure Invariant (s : State) : Prop where
  canonical : s.mem.wf = true
  quiet : Quiet s
  queueBuffered : QueueBuffered s
  queueSorted : QueueSorted s
  stageConsistent : StageConsistent s

/-- The states the Clock can be started from (`70_reset_and_hazards.md` R203): the reset state, further devices
registered with empty buffers, and images flashed. -/
inductive Boot : State → Prop where
  | reset : Boot State.reset
  | register (s : State) (dev : Device) : Boot s → dev.buf = [] → Boot (registerDevice dev s)
  | flash (s t : State) (start : Addr) (bytes : List Byte) : Boot s → flash start bytes s = .next t → Boot t

/-- The states a run reaches: from a state the Clock can start from, with any moves on the agenda, by steps. -/
inductive Reachable : State → Prop where
  | start (s : State) (agenda : List Event) : Boot s → Reachable { s with agenda := agenda }
  | step (s t : State) : Reachable s → step s = .next t → Reachable t

/-- `PC`, `AR`, `DR`, `IR` and `STAGE` after the ticks `Fetch`, `Decode1`, `Execute1` of a 1-byte instruction, nothing
else changed (R120). -/
def afterImplied (op : Byte) (s : State) : State :=
  { s with pc := s.pc + 1#16, ar := s.pc, dr := op, ir := op, stage := .interruptCheck }

/-- The same after a 2-byte instruction (R130, immediate; R140 before the branch). -/
def afterImmediate (op operand : Byte) (s : State) : State :=
  { s with pc := s.pc + 2#16, ar := s.pc + 1#16, dr := operand, ir := op, stage := .interruptCheck }

/-- The same after a 3-byte instruction, whose effective address is `addr` (R130, absolute). -/
def afterAbsolute (op : Byte) (addr : Addr) (s : State) : State :=
  { s with
    pc := s.pc + 3#16, ar := addr, dr := s.mem.read addr, ir := op, lo := lowByte addr, hi := highByte addr,
    stage := .interruptCheck }

/-- What a program can observe of a state: everything but the interrupt side and the output stream, which no
instruction reads (`60_exceptions.md` R188), and the agenda. -/
def programView (s : State) : State :=
  { s with devices := [], iq := [], out := [], agenda := [] }

/-- A move that is no `POST`. -/
def Event.notPost : Event → Bool
  | .post _ _ => false
  | .tick | .terminate => true

/-- `k` ticks. -/
def ticks (k : Nat) (s : State) (opc : OpcodeTable := Opcode.defaultTable) : State :=
  match k with
  | 0 => s
  | j + 1 => ticks j (tick s opc) opc

/-- The ticks a step from `Fetch` makes for an instruction, its `InterruptCheck` included (`70_reset_and_hazards.md`
R215): 4 for a 0- or 1-operand instruction, 3 for `BRK`, 5 for a 2-operand one, 7 for `INC`; for `SYS`, 4 with `X = 1`,
5 with any other `X`. The one exception is the model's choice (log 23): of a string of `n` bytes, `n` not 0, for which
R215 gives `n + 5`, the step makes the first 4 ticks and leaves the instruction in `Execute1`. -/
def instructionTicks (s : State) : Nat :=
  match instructionAtPc s with
  | none => 4
  | some .brk => 3
  | some .txa | some .tya | some .tax | some .tay | some .nop => 4
  | some (.ldaImm _) | some (.ldxImm _) | some (.ldyImm _) | some (.bneRel _) => 4
  | some (.ldaAbs _) | some (.ldxAbs _) | some (.ldyAbs _) | some (.staAbs _) | some (.adcAbs _) | some (.cpxAbs _) => 5
  | some (.incAbs _) => 7
  | some (.sys none) => 4
  | some (.sys (some addr)) => if s.x = 3#8 ∧ s.mem.read addr ≠ 0#8 then 4 else 5

/-- A step is safe when it answers a next state, or stops only because the Clock has stopped for good: no fault or
refusal of an instruction. -/
def SafeStep (s : State) : Prop :=
  (∃ t, step s = .next t) ∨ (s.run = false ∧ step s = .fault .clockStopped)

end Sys2Proof.Machine
end

