-- ==== Sys2Proof/Certificates/Slice0/Obligations.lean ====
section
/-! DEFINITION. The statements about the machine that are to be proved. Each docstring names the rule of spec/ it
formalises. Where a clause rests on a value the spec marks as its own decision (D<n> of `92_eei_decisions.md`) or on
general knowledge, the docstring says so and names the log entry. Addresses wrap modulo 65536 (D5, log 4), bytes modulo
256 (D4, log 3). -/

open Sys2Proof Sys2Proof.Machine

/-! ### Encoding -/

/-- Words written out from the encodings of `30_encoding.md` R76 decode to the instructions they stand for, one or more
of every family. The opcode values are the spec's general knowledge (GK1, log 1). -/
def Obligations.SampleWordsDecode : Prop :=
  decode 0#8 [0x8A#8] = .ok (.txa, []) ∧
  decode 0#8 [0x00#8, 0x77#8] = .ok (.brk, [0x77#8]) ∧
  decode 0#8 [0xA2#8, 0x0A#8] = .ok (.ldxImm 0x0A#8, []) ∧
  decode 0#8 [0xAD#8, 0x34#8, 0x12#8] = .ok (.ldaAbs 0x1234#16, []) ∧
  decode 0#8 [0x8D#8, 0x00#8, 0x40#8] = .ok (.staAbs 0x4000#16, []) ∧
  decode 0#8 [0xD0#8, 0xFE#8] = .ok (.bneRel 0xFE#8, []) ∧
  decode 0#8 [0xEE#8, 0x20#8, 0x00#8] = .ok (.incAbs 0x0020#16, []) ∧
  decode 1#8 [0xFF#8, 0x10#8, 0x00#8] = .ok (.sys none, [0x10#8, 0x00#8]) ∧
  decode 3#8 [0xFF#8, 0x10#8, 0x00#8] = .ok (.sys (some 0x0010#16), []) ∧
  decode 0#8 [0x02#8, 0x00#8] = .error (.unrecognized 0x02#8)

/-- The operand-count table of `30_encoding.md` R78 on every byte; absent for the other 238. The byte values are general
knowledge (log 1). -/
def Obligations.OperandCountTable : Prop :=
  ∀ b : Byte, operandCount b =
    if b ∈ [0x8A#8, 0x98#8, 0xAA#8, 0xA8#8, 0xEA#8, 0x00#8] then some 0
    else if b ∈ [0xA9#8, 0xA2#8, 0xA0#8, 0xD0#8] then some 1
    else if b ∈ [0xAD#8, 0xAE#8, 0xAC#8, 0x8D#8, 0x6D#8, 0xEC#8, 0xEE#8, 0xFF#8] then some 2
    else none

/-- Decoding the encoding of a well-formed instruction gives the instruction back, with every operand at every value, at
every value of `X`, before any further bytes, and under every table of distinct opcode bytes (`30_encoding.md` R70 to
R74, R77). -/
def Obligations.DecodeOfEncodeIsTheInstruction : Prop :=
  ∀ (opc : OpcodeTable) (x : Byte) (i : Instr) (rest : List Byte), opc.wf = true → i.wellFormed x = true →
    decode x (encode i opc ++ rest) opc = .ok (i, rest)

/-- What decodes is the encoding of a well-formed instruction, and no byte is dropped, under every opcode table
(`30_encoding.md` R70 to R74, R80). -/
def Obligations.DecodedBytesAreTheEncoding : Prop :=
  ∀ (opc : OpcodeTable) (x : Byte) (bytes : List Byte) (i : Instr) (rest : List Byte),
    decode x bytes opc = .ok (i, rest) → bytes = encode i opc ++ rest ∧ i.wellFormed x = true

/-- A byte is rejected as unrecognized exactly when it is none of the 18 opcode bytes, under every opcode table
(`30_encoding.md` R71, R79). -/
def Obligations.UnlistedBytesAreRejectedByName : Prop :=
  ∀ (opc : OpcodeTable) (x b : Byte) (rest : List Byte),
    decode x (b :: rest) opc = .error (.unrecognized b) ↔ ∀ o : Opcode, o.byte opc ≠ b

/-! ### The Memory component and the MMU -/

/-- `20_memory.md` R54 and R55: the assembled address is `HI * 256 + LO`, the byte-pair `setAddress` stores both bytes and
commits it, and the source's example low 0x34, high 0x12 gives 0x1234. -/
def Obligations.AddressAssemblyIsLittleEndian : Prop :=
  (∀ s : State, (assembleLittleEndian s).toNat = s.hi.toNat * 256 + s.lo.toNat) ∧
  (∀ (low high : Byte) (s : State),
    setAddressPair low high s = { s with lo := low, hi := high, ar := assemble high low }) ∧
  (setAddressPair 0x34#8 0x12#8 State.reset).ar = 0x1234#16

/-- `20_memory.md` R44, R45, R46: `read()` copies the cell at `AR` into `DR`; `write()` copies `DR` into the cell at `AR`
and every other cell reads as before; the setters set their register and nothing else, the getters return theirs. -/
def Obligations.MemoryOperationsMoveOneByte : Prop :=
  (∀ s : State, readNow s = { s with dr := s.mem.read s.ar }) ∧
  (∀ s : State, s.mem.wf = true → (∀ a, (writeNow s).mem.read a = if a = s.ar then s.dr else s.mem.read a) ∧
    writeNow s = { s with mem := (writeNow s).mem }) ∧
  (∀ (a : Addr) (s : State), setAddress a s = { s with ar := a }) ∧
  (∀ (b : Byte) (s : State), setData b s = { s with dr := b }) ∧
  (∀ (b : Bool) (s : State), setPendingRead b s = { s with pr := b }) ∧
  (∀ (b : Bool) (s : State), setPendingWrite b s = { s with pw := b }) ∧
  (∀ s : State, getAddress s = s.ar ∧ getData s = s.dr ∧ getPendingRead s = s.pr ∧ getPendingWrite s = s.pw)

/-- `20_memory.md` R48: the Memory's pulse honours a pending write, then a pending read, and clears both flags; with both
set the read returns the byte just written; with both clear nothing changes. That a tick is the CPU's pulse and then the
Memory's is `40_pipeline.md` R90 and R91, with exactly these two listeners (D19, log 17). -/
def Obligations.MemoryPulseWritesThenReads : Prop :=
  (∀ s : State, tick s = memoryPulse (cpuPulse s)) ∧
  ∀ s : State, s.mem.wf = true →
    memoryPulse s =
      { s with
        mem := if s.pw then s.mem.write s.ar s.dr else s.mem
        dr := if s.pr then (if s.pw then s.dr else s.mem.read s.ar) else s.dr
        pw := false
        pr := false }

/-- `20_memory.md` R47, R56: the Memory's `reset()` zeroes every cell; `writeImmediate` sets the address and the data and
writes at once, without `PW`; `readImmediate` is `read()` (the spec's inference, log 31). Nothing else changes. -/
def Obligations.ImmediateAccessesActAtOnce : Prop :=
  (∀ (s : State) (a : Addr), (memoryReset s).mem.read a = 0#8 ∧
    memoryReset s = { s with mem := (memoryReset s).mem }) ∧
  (∀ (a : Addr) (b : Byte) (s : State), s.mem.wf = true → ∃ t, writeImmediate a b s = t ∧
    t = { s with ar := a, dr := b, mem := t.mem } ∧
    ∀ c : Addr, t.mem.read c = if c = a then b else s.mem.read c) ∧
  (∀ s : State, readImmediate s = readNow s)

/-- `70_reset_and_hazards.md` R204 (its precondition is D20, log 18): a program load that fits stores its bytes at
consecutive addresses, leaves every other cell, and changes besides only `AR` and `DR`; one that does not fit is
refused. The default load address is 0x0000 (`00_scope.md` R7). -/
def Obligations.FlashStoresTheImage : Prop :=
  (∀ (bytes : List Byte) (s : State), loadProgram bytes s = flash 0x0000#16 bytes s) ∧
  ∀ (start : Addr) (bytes : List Byte) (s : State), s.mem.wf = true →
    (start.toNat + bytes.length ≤ 65536 → ∃ t, flash start bytes s = .next t ∧
      (∀ (i : Nat) (h : i < bytes.length), t.mem.read (BitVec.ofNat 16 (start.toNat + i)) = bytes[i]) ∧
      (∀ a : Addr, a.toNat < start.toNat ∨ start.toNat + bytes.length ≤ a.toNat → t.mem.read a = s.mem.read a) ∧
      t = { s with mem := t.mem, ar := t.ar, dr := t.dr }) ∧
    (65536 < start.toNat + bytes.length → flash start bytes s = .refused .flashDoesNotFit)

/-! ### Instructions, from `Fetch` to the last execute or write-back tick -/

/-- `41_moves_nop_halt.md` R120 to R124: each move copies one register into another; no flag, no memory, nothing else
but the pipeline's own effects. -/
def Obligations.MovesCopyOneRegister : Prop :=
  ∀ s : State, Quiet s →
    exec .txa s = .next { afterImplied Opcode.txa.byte s with acc := s.x } ∧
    exec .tya s = .next { afterImplied Opcode.tya.byte s with acc := s.y } ∧
    exec .tax s = .next { afterImplied Opcode.tax.byte s with x := s.acc } ∧
    exec .tay s = .next { afterImplied Opcode.tay.byte s with y := s.acc }

/-- `41_moves_nop_halt.md` R120, R125: `NOP` has the pipeline's own effects and no other. -/
def Obligations.NopOnlyAdvances : Prop :=
  ∀ s : State, Quiet s → exec .nop s = .next (afterImplied Opcode.nop.byte s)

/-- `41_moves_nop_halt.md` R126, R127: `BRK` clears `RUN`, moves `PC` by one and changes nothing else; no step follows.
That `STAGE` is left at `InterruptCheck` is D18 (log 16). -/
def Obligations.BrkStopsTheClock : Prop :=
  ∀ s : State, Quiet s → ∃ t, exec .brk s = .next t ∧
    t = { afterImplied Opcode.brk.byte s with run := false } ∧ step t = .fault .clockStopped

/-- `42_loads_stores.md` R130 to R133: an immediate load puts the operand byte into its register; `Z` is not touched,
whatever the byte. -/
def Obligations.LoadImmediateSetsItsRegister : Prop :=
  ∀ (imm : Byte) (s : State), Quiet s →
    exec (.ldaImm imm) s = .next { afterImmediate Opcode.ldaImm.byte imm s with acc := imm } ∧
    exec (.ldxImm imm) s = .next { afterImmediate Opcode.ldxImm.byte imm s with x := imm } ∧
    exec (.ldyImm imm) s = .next { afterImmediate Opcode.ldyImm.byte imm s with y := imm }

/-- `42_loads_stores.md` R130, R134 to R136: an absolute load puts the cell at the effective address into its register;
no flag and no byte of memory changes. -/
def Obligations.LoadAbsoluteReadsTheCell : Prop :=
  ∀ (addr : Addr) (s : State), Quiet s →
    exec (.ldaAbs addr) s = .next { afterAbsolute Opcode.ldaAbs.byte addr s with acc := s.mem.read addr } ∧
    exec (.ldxAbs addr) s = .next { afterAbsolute Opcode.ldxAbs.byte addr s with x := s.mem.read addr } ∧
    exec (.ldyAbs addr) s = .next { afterAbsolute Opcode.ldyAbs.byte addr s with y := s.mem.read addr }

/-- `42_loads_stores.md` R130, R137: `STA` stores `ACC` at the effective address, every other byte of memory reads as
before, `DR` holds `ACC`, and nothing else changes but the pipeline's own effects. -/
def Obligations.StaStoresTheAccumulator : Prop :=
  ∀ (addr : Addr) (s : State), Quiet s → s.mem.wf = true → ∃ t, exec (.staAbs addr) s = .next t ∧
    t = { afterAbsolute Opcode.staAbs.byte addr s with dr := s.acc, mem := t.mem } ∧
    t.mem.read addr = s.acc ∧ (∀ a, a ≠ addr → t.mem.read a = s.mem.read a) ∧ t.mem.wf = true

/-- `43_branch.md` R140: `BNE` with `Z = 0` subtracts `TC(rel)` from the address after it, with `Z = 1` goes on; no
register, flag or byte of memory changes. `TC(0x00) = 256` is D6 (log 5). -/
def Obligations.BneBranchesBackward : Prop :=
  ∀ (rel : Byte) (s : State), Quiet s →
    exec (.bneRel rel) s = .next
      { afterImmediate Opcode.bneRel.byte rel s with
        pc := if s.z then s.pc + 2#16 else s.pc + 2#16 - BitVec.ofNat 16 (256 - rel.toNat) }

/-- `44_arithmetic_compare.md` R150: `ADC` adds the cell to `ACC` modulo 256, with no carry in or out; neither `Z` nor
memory changes. The reduction is D4 (log 3). -/
def Obligations.AdcAddsWithoutCarry : Prop :=
  ∀ (addr : Addr) (s : State), Quiet s → ∃ t, exec (.adcAbs addr) s = .next t ∧
    t = { afterAbsolute Opcode.adcAbs.byte addr s with acc := t.acc } ∧
    t.acc.toNat = (s.acc.toNat + (s.mem.read addr).toNat) % 256

/-- `44_arithmetic_compare.md` R151: `CPX` sets `Z` when the cell equals `X` and otherwise leaves `Z` as it was; no
register and no byte of memory changes. -/
def Obligations.CpxLatchesZeroOnEquality : Prop :=
  ∀ (addr : Addr) (s : State), Quiet s →
    exec (.cpxAbs addr) s = .next
      { afterAbsolute Opcode.cpxAbs.byte addr s with z := if s.mem.read addr = s.x then true else s.z }

/-- `44_arithmetic_compare.md` R153: `INC` puts the cell plus one, modulo 256 (D4, log 3), into the cell, into `ACC` and
into `DR`; every other byte of memory reads as before; `Z` is not touched. -/
def Obligations.IncUpdatesCellAndAccumulator : Prop :=
  ∀ (addr : Addr) (s : State), Quiet s → s.mem.wf = true → ∃ t, exec (.incAbs addr) s = .next t ∧
    t = { afterAbsolute Opcode.incAbs.byte addr s with acc := t.acc, dr := t.acc, mem := t.mem } ∧
    t.acc.toNat = ((s.mem.read addr).toNat + 1) % 256 ∧
    t.mem.read addr = t.acc ∧ (∀ a, a ≠ addr → t.mem.read a = s.mem.read a) ∧ t.mem.wf = true

/-- `45_system_call.md` R161: with `X = 1`, `SYS` is one byte long whatever follows it, and prints `Y`; no register,
flag or byte of memory changes. -/
def Obligations.SysPrintsYAsAnInteger : Prop :=
  ∀ (operand : Option Addr) (s : State), Quiet s → s.x = 1#8 →
    exec (.sys operand) s = .next { afterImplied Opcode.sys.byte s with out := s.out ++ [.outInt s.y.toNat] }

/-- `45_system_call.md` R164, R165: with `X` neither 1 nor 3, `SYS` consumes its address and does nothing else. That every
`X` other than 1, 2 and 3 is treated like 2 is D11 (log 10). The address is the operand; for a `SYS` written without one
it is the two bytes that follow it in memory (log 26). -/
def Obligations.SysOtherModesDoNothing : Prop :=
  ∀ (operand : Option Addr) (s : State), Quiet s → s.x ≠ 1#8 → s.x ≠ 3#8 →
    exec (.sys operand) s = .next (afterAbsolute Opcode.sys.byte
      (operand.getD (assemble (s.mem.read (s.pc + 2#16)) (s.mem.read (s.pc + 1#16)))) s)

/-- `45_system_call.md` R163: with `X = 3`, `SYS` makes its first string tick: an empty string ends it; a byte is emitted,
`AR` moves on and `Execute1` is entered again. The order within the tick is D10 (log 9); that the meaning makes one
string tick is the model's (log 23). The address is as in the statement before (log 26). -/
def Obligations.SysStartsTheString : Prop :=
  ∀ (operand : Option Addr) (addr : Addr) (s : State), Quiet s → s.x = 3#8 →
    addr = operand.getD (assemble (s.mem.read (s.pc + 2#16)) (s.mem.read (s.pc + 1#16))) →
    (s.mem.read addr = 0#8 → exec (.sys operand) s = .next (afterAbsolute Opcode.sys.byte addr s)) ∧
    (s.mem.read addr ≠ 0#8 → exec (.sys operand) s = .next
      { afterAbsolute Opcode.sys.byte addr s with
        ar := addr + 1#16, stage := .execute1, out := s.out ++ [.outChar (s.mem.read addr)] })

/-- `45_system_call.md` R163: a string of `n` non-zero bytes at the effective address, then a zero byte, is emitted in
order, in `n + 1` `Execute1` ticks after the three of the decode path; `AR` is left at the terminator, `DR` at 0, `PC`
three further, and nothing else changes. The number of ticks depends on D10 (log 9). -/
def Obligations.SysStreamsTheWholeString : Prop :=
  ∀ (n : Nat) (addr : Addr) (s : State), Quiet s → s.stage = .fetch → s.x = 3#8 →
    instructionAtPc s = some (.sys (some addr)) →
    (∀ i < n, s.mem.read (addr + BitVec.ofNat 16 i) ≠ 0#8) → s.mem.read (addr + BitVec.ofNat 16 n) = 0#8 →
    ticks (n + 4) s =
      { afterAbsolute Opcode.sys.byte addr s with
        ar := addr + BitVec.ofNat 16 n
        dr := 0#8
        out := s.out ++ (List.range n).map (fun i => .outChar (s.mem.read (addr + BitVec.ofNat 16 i))) }

/-- `45_system_call.md` R166, `60_exceptions.md` R171: an unrecognized opcode byte is consumed alone, its diagnostic is
appended, and the instruction ends as any other; nothing stops. -/
def Obligations.UnrecognizedOpcodeIsLoggedAndSkipped : Prop :=
  ∀ s : State, Quiet s → s.run = true → s.agenda = [] → s.stage = .fetch →
    (∀ o : Opcode, o.byte ≠ s.mem.read s.pc) →
    step s = .next (interruptCheckStage
      { afterImplied (s.mem.read s.pc) s with out := s.out ++ [.diag .decodeFault (s.mem.read s.pc)] })

/-- `43_branch.md` R141, R142 (with D6, log 5): `TC(b) = 256 - b`, an integer 1 to 256; a taken branch at `a` goes to
`a + 2 + rel - 256`, which for `rel` 0x80 and above is the signed-offset target. -/
def Obligations.BranchDisplacementLaw : Prop :=
  (∀ b : Byte, twosComplementMagnitude b = 256 - b.toNat ∧ 1 ≤ twosComplementMagnitude b ∧
    twosComplementMagnitude b ≤ 256) ∧
  (∀ (a : Addr) (rel : Byte), branchTarget (a + 2#16) rel = a + 2#16 + rel.setWidth 16 - 256#16) ∧
  (∀ (a : Addr) (rel : Byte), 0x80#8 ≤ rel → branchTarget (a + 2#16) rel = a + 2#16 + rel.signExtend 16)

/-! ### Stages -/

/-- `40_pipeline.md` R93 to R97: `Fetch`, every case of `Decode1`, and `Decode2`, with all they write and nothing else. -/
def Obligations.FetchAndDecodeStages : Prop :=
  ∀ s : State, Quiet s →
    (s.stage = .fetch → tick s =
      { s with ar := s.pc, pc := s.pc + 1#16, dr := s.mem.read s.pc, ir := s.mem.read s.pc, stage := .decode1 }) ∧
    (s.stage = .decode1 → (operandCount s.ir = none ∨ operandCount s.ir = some 0) →
      tick s = { s with stage := .execute1 }) ∧
    (s.stage = .decode1 → operandCount s.ir = some 1 → tick s =
      { s with ar := s.pc, pc := s.pc + 1#16, dr := s.mem.read s.pc, stage := .execute1 }) ∧
    (s.stage = .decode1 → s.ir = Opcode.sys.byte → s.x = 1#8 → tick s = { s with stage := .execute1 }) ∧
    (s.stage = .decode1 → operandCount s.ir = some 2 → ¬(s.ir = Opcode.sys.byte ∧ s.x = 1#8) → tick s =
      { s with
        ar := s.pc, pc := s.pc + 1#16, dr := s.mem.read s.pc, lo := s.mem.read s.pc, stage := .decode2 }) ∧
    (s.stage = .decode2 → tick s =
      { s with
        pc := s.pc + 1#16, hi := s.mem.read s.pc, ar := assemble (s.mem.read s.pc) s.lo,
        dr := s.mem.read (assemble (s.mem.read s.pc) s.lo), stage := .execute1 })

/-- `40_pipeline.md` R99, R100, R153: `Execute2` of `INC` adds one to `ACC` (modulo 256, D4, log 3), and `WriteBack`
stores `ACC` at `AR` in its own tick. -/
def Obligations.IncrementStages : Prop :=
  ∀ s : State, Quiet s →
    (s.stage = .execute2 → s.ir = Opcode.incAbs.byte →
      tick s = { s with acc := s.acc + 1#8, stage := .writeBack }) ∧
    (s.stage = .writeBack →
      tick s = { s with dr := s.acc, mem := s.mem.write s.ar s.acc, stage := .interruptCheck })

/-- `40_pipeline.md` R103: the stage-transition table, row by row. The row `Execute2` has the invariant
`StageConsistent` as premise, which rules out the states no run reaches (an `Execute2` of another opcode, D30, log 22).
Rows rest on decisions of the spec: an absent opcode goes through `Decode1` to `Execute1` (D9, log 8), `BRK` to
`InterruptCheck` (D18, log 16), a string tests the cell at `AR` before it moves on (D10, log 9), `SYS` with an `X` other
than 1, 2 and 3 goes to `InterruptCheck` (D11, log 10). -/
def Obligations.StageTransitionTable : Prop :=
  ∀ s : State,
    (s.stage = .fetch → (tick s).stage = .decode1) ∧
    (s.stage = .decode1 → (operandCount s.ir = none ∨ operandCount s.ir = some 0 ∨ operandCount s.ir = some 1) →
      (tick s).stage = .execute1) ∧
    (s.stage = .decode1 → operandCount s.ir = some 2 → s.ir = Opcode.sys.byte → s.x = 1#8 →
      (tick s).stage = .execute1) ∧
    (s.stage = .decode1 → operandCount s.ir = some 2 → ¬(s.ir = Opcode.sys.byte ∧ s.x = 1#8) →
      (tick s).stage = .decode2) ∧
    (s.stage = .decode2 → (tick s).stage = .execute1) ∧
    (s.stage = .execute1 → s.ir = Opcode.incAbs.byte → (tick s).stage = .execute2) ∧
    (s.stage = .execute1 → s.ir = Opcode.sys.byte → s.x = 3#8 → s.mem.read s.ar ≠ 0#8 →
      (tick s).stage = .execute1) ∧
    (s.stage = .execute1 → s.ir ≠ Opcode.incAbs.byte →
      ¬(s.ir = Opcode.sys.byte ∧ s.x = 3#8 ∧ s.mem.read s.ar ≠ 0#8) → (tick s).stage = .interruptCheck) ∧
    (s.stage = .execute2 → StageConsistent s → (tick s).stage = .writeBack) ∧
    (s.stage = .writeBack → (tick s).stage = .interruptCheck) ∧
    (s.stage = .interruptCheck → (tick s).stage = .fetch)

/-- `60_exceptions.md` R187: the three cases of `InterruptCheck`, each with all it changes. That the emitted item is
removed is D14 (log 12). -/
def Obligations.InterruptCheckEmitsOneItem : Prop :=
  ∀ s : State, Quiet s → s.stage = .interruptCheck →
    (s.iq = [] → tick s = { s with stage := .fetch }) ∧
    (∀ d q, s.iq = d :: q → bufOf s.devices d = [] → tick s = { s with stage := .fetch }) ∧
    (∀ d q item rest, s.iq = d :: q → bufOf s.devices d = item :: rest → tick s =
      { s with
        stage := .fetch, out := s.out ++ [.outIrq d item], devices := setBuf s.devices d rest, iq := [] })

/-- `60_exceptions.md` R170 to R174, R176: the condition an `Execute1` tick raises, when, and all that tick then does.
OutOfRange is never raised (D5, log 4). That DecodeFault is raised in `Execute1` is D9 (log 8), that `BRK` leaves `STAGE`
at `InterruptCheck` D18 (log 16). -/
def Obligations.RaisedConditionsAndTheirEffects : Prop :=
  ∀ s : State, Quiet s → s.stage = .execute1 →
    (raisedCondition s = some .decodeFault ↔ ∀ o : Opcode, o.byte ≠ s.ir) ∧
    (raisedCondition s = some .decodeFault →
      tick s = { s with out := s.out ++ [.diag .decodeFault s.ir], stage := .interruptCheck }) ∧
    (raisedCondition s = some .unimplementedMode ↔ s.ir = Opcode.sys.byte ∧ s.x = 2#8) ∧
    (raisedCondition s = some .unimplementedMode → tick s = { s with stage := .interruptCheck }) ∧
    (raisedCondition s = some .halt ↔ s.ir = Opcode.brk.byte) ∧
    (raisedCondition s = some .halt → tick s = { s with run := false, stage := .interruptCheck }) ∧
    raisedCondition s ≠ some .outOfRange

/-! ### Who writes what: rules of the whole machine -/

/-- `10_state.md` R17: `Z` is set only by `CPX` when the byte read equals `X`, is cleared by no tick and no event, the
program load included, and is read only by `BNE`: in every other tick its value has no effect on anything else. -/
def Obligations.ZeroFlagIsAOneWayLatch : Prop :=
  (∀ s : State,
    (tick s).z = (s.z || decide (s.stage = .execute1 ∧ s.ir = Opcode.cpxAbs.byte ∧ s.dr = s.x))) ∧
  (∀ (d : Nat) (item : Item) (s t : State), postEvent d item s = .next t → t.z = s.z) ∧
  (∀ s : State, (terminateEvent s).z = s.z) ∧
  (∀ (start : Addr) (bytes : List Byte) (s t : State), flash start bytes s = .next t → t.z = s.z) ∧
  (∀ (s : State) (b : Bool), ¬(s.stage = .execute1 ∧ s.ir = Opcode.bneRel.byte) →
    { tick { s with z := b } with z := false } = { tick s with z := false })

/-- `10_state.md` R21, `41_moves_nop_halt.md` R126: a tick clears `RUN` exactly in `Execute1` of `BRK`, and none sets
it. -/
def Obligations.OnlyBrkClearsRunInATick : Prop :=
  ∀ s : State, (tick s).run = (s.run && !decide (s.stage = .execute1 ∧ s.ir = Opcode.brk.byte))

/-- `10_state.md` R11: the ticks that can change `ACC`, `X` and `Y`. -/
def Obligations.GeneralRegistersChangeOnlyByTheirWriters : Prop :=
  ∀ s : State,
    ((tick s).acc ≠ s.acc →
      (s.stage = .execute1 ∧ ∃ o ∈ [Opcode.ldaImm, .ldaAbs, .txa, .tya, .adcAbs, .incAbs], s.ir = o.byte) ∨
      (s.stage = .execute2 ∧ s.ir = Opcode.incAbs.byte)) ∧
    ((tick s).x ≠ s.x → s.stage = .execute1 ∧ ∃ o ∈ [Opcode.ldxImm, .ldxAbs, .tax], s.ir = o.byte) ∧
    ((tick s).y ≠ s.y → s.stage = .execute1 ∧ ∃ o ∈ [Opcode.ldyImm, .ldyAbs, .tay], s.ir = o.byte)

/-- `10_state.md` R13: `PC` advances by one in exactly the ticks that consume a byte, a taken branch is its only other
writer, and `IR` is written only by `Fetch` (R19). -/
def Obligations.ProgramCounterWriters : Prop :=
  ∀ s : State,
    (tick s).pc =
      (match s.stage with
      | .fetch | .decode2 => s.pc + 1#16
      | .decode1 =>
        if operandCount s.ir = some 1 ∨ (operandCount s.ir = some 2 ∧ ¬(s.ir = Opcode.sys.byte ∧ s.x = 1#8))
        then s.pc + 1#16 else s.pc
      | .execute1 => if s.ir = Opcode.bneRel.byte ∧ s.z = false then branchTarget s.pc s.dr else s.pc
      | .execute2 | .writeBack | .interruptCheck => s.pc) ∧
    (tick s).ir = if s.stage = .fetch then s.mem.read s.pc else s.ir

/-- `20_memory.md` R62, R216: memory changes only in `Execute1` of `STA` and in `WriteBack`, in that very tick, only at
`AR`, and receives `ACC`. -/
def Obligations.MemoryChangesOnlyByAFlaggedWrite : Prop :=
  ∀ s : State, Quiet s → s.mem.wf = true → ∀ a : Addr,
    (tick s).mem.read a =
      if ((s.stage = .execute1 ∧ s.ir = Opcode.staAbs.byte) ∨ s.stage = .writeBack) ∧ a = s.ar then s.acc
      else s.mem.read a

/-- `20_memory.md` R66: what either store instruction, `STA` or `INC`, stores at any address is what a `Fetch` of that
address then reads: the very next one, where the address is that of the next instruction. The sum of `INC` is modulo 256
(D4, log 3), the next address modulo 65536 (D5, log 4). -/
def Obligations.NextFetchSeesTheStore : Prop :=
  ∀ (s : State) (addr : Addr), Quiet s → s.mem.wf = true → s.run = true → s.agenda = [] → s.stage = .fetch →
    (instructionAtPc s = some (.staAbs addr) → ∃ t, step s = .next t ∧ t.pc = s.pc + 3#16 ∧ t.stage = .fetch ∧
      (tick { t with pc := addr }).ir = s.acc ∧ (addr = s.pc + 3#16 → (tick t).ir = s.acc)) ∧
    (instructionAtPc s = some (.incAbs addr) → ∃ t, step s = .next t ∧ t.pc = s.pc + 3#16 ∧ t.stage = .fetch ∧
      (tick { t with pc := addr }).ir = s.mem.read addr + 1#8 ∧
      (addr = s.pc + 3#16 → (tick t).ir = s.mem.read addr + 1#8))

/-- `10_state.md` R26, `20_memory.md` R57: outside `Decode2` no tick reads `LO` or `HI`. -/
def Obligations.AddressBytesAreReadOnlyInDecode2 : Prop :=
  ∀ (s : State) (l h : Byte), s.stage ≠ .decode2 →
    { tick { s with lo := l, hi := h } with lo := 0#8, hi := 0#8 } = { tick s with lo := 0#8, hi := 0#8 }

/-- `10_state.md` R30: the output stream only grows, by at most one event a tick, and not by a `POST` or `TERMINATE`. -/
def Obligations.OutputIsAppendOnly : Prop :=
  (∀ s : State, ∃ l : List OutEvent, l.length ≤ 1 ∧ (tick s).out = s.out ++ l) ∧
  (∀ (d : Nat) (item : Item) (s t : State), postEvent d item s = .next t → t.out = s.out) ∧
  (∀ s : State, (terminateEvent s).out = s.out)

/-! ### Interrupts and the environment -/

/-- `60_exceptions.md` R179, R182: registering appends a device and does nothing else (that the devices are a list in
`State` is log 19); `clearOutputBuffer()` empties the queue, the whole of it, and no buffer. -/
def Obligations.ControllerRegistersAndClears : Prop :=
  (∀ (dev : Device) (s : State), registerDevice dev s = { s with devices := s.devices ++ [dev] }) ∧
  (∀ s : State, clearOutputBuffer s = { s with iq := [] })

/-- `60_exceptions.md` R180: accepting an interrupt keeps every entry and the new one, sorts them ascending by priority,
and keeps the insertion order of equal priorities; nothing else changes. -/
def Obligations.AcceptedInterruptsAreSortedStably : Prop :=
  ∀ (d : Nat) (s : State), ∃ q : List Nat, acceptInterrupt d s = { s with iq := q } ∧
    q.Perm (s.iq ++ [d]) ∧
    q.Pairwise (fun a b => prioOf s.devices a ≤ prioOf s.devices b) ∧
    ∀ p : Int, q.filter (fun a => prioOf s.devices a = p) = (s.iq ++ [d]).filter (fun a => prioOf s.devices a = p)

/-- `60_exceptions.md` R181: re-sorting a sorted queue changes nothing; `highestPriority()` is its first element, or none,
is as urgent as any, and stays in the queue. -/
def Obligations.HighestPriorityIsTheHead : Prop :=
  ∀ s : State, QueueSorted s →
    sortByPrio s.devices s.iq = s.iq ∧ highestPriority s = (sortByPrio s.devices s.iq).head? ∧
    (highestPriority s = none ↔ s.iq = []) ∧
    ∀ d, highestPriority s = some d → ∀ e ∈ s.iq, prioOf s.devices d ≤ prioOf s.devices e

/-- `60_exceptions.md` R184: a `POST` of a registered device appends the item to its buffer and queues the device, in one
move; no other buffer, no device attribute and nothing else changes. -/
def Obligations.PostBuffersAndQueues : Prop :=
  ∀ (d : Nat) (item : Item) (s : State), s.run = true → d < s.devices.length →
    ∃ t, perform (.post d item) s = .next t ∧
      t = { s with devices := t.devices, iq := sortByPrio s.devices (s.iq ++ [d]) } ∧
      bufOf t.devices d = bufOf s.devices d ++ [item] ∧
      (∀ e, e ≠ d → bufOf t.devices e = bufOf s.devices e) ∧
      t.devices.map (fun dev => (dev.irq, dev.prio, dev.name)) =
        s.devices.map (fun dev => (dev.irq, dev.prio, dev.name))

/-- `60_exceptions.md` R185: the move `TERMINATE` clears `RUN` and nothing else. That no tick follows is D17 (log 15); that
no `POST`, no second `TERMINATE` and no step follows either, each answering that the Clock has stopped, is the model's
inference (log 25). The keyboard's control byte terminates, any other key is posted by device 0 (the byte's value 0x03 is
general knowledge, log 20; that the keyboard is device 0 is the model's, log 19). -/
def Obligations.TerminateStopsAtOnce : Prop :=
  (∀ s : State, terminateEvent s = { s with run := false }) ∧
  (∀ s : State, s.run = true → perform .terminate s = .next { s with run := false }) ∧
  (∀ (s : State) (e : Event), perform e (terminateEvent s) = .fault .clockStopped) ∧
  (∀ s : State, step (terminateEvent s) = .fault .clockStopped) ∧
  (∀ s : State, keyPress 0x03#8 s = .next (terminateEvent s)) ∧
  (∀ (b : Byte) (s : State), b ≠ 0x03#8 → keyPress b s = postEvent 0 b s)

/-- `60_exceptions.md` R186 (D16, log 14): while the machine runs, a `POST` lands alike before and after any tick but
`InterruptCheck` and the halting tick, `Execute1` of `BRK`, after which no move is made (log 25). -/
def Obligations.PostCommutesWithTicks : Prop :=
  ∀ (d : Nat) (item : Item) (s : State), s.run = true → d < s.devices.length → s.stage ≠ .interruptCheck →
    (¬(s.stage = .execute1 ∧ s.ir = Opcode.brk.byte) →
      ∃ t, performAll [.post d item, .tick] s = .next t ∧ performAll [.tick, .post d item] s = .next t) ∧
    (s.stage = .execute1 → s.ir = Opcode.brk.byte →
      (∃ t, performAll [.post d item, .tick] s = .next t) ∧
      performAll [.tick, .post d item] s = .fault .clockStopped)

/-- `60_exceptions.md` R188: no program can observe an interrupt. In any sequence of ticks, posts and terminations that
goes through, leaving out the posts goes through too and ends in the same program-visible state. How moves are
interleaved is D16 (log 14). -/
def Obligations.PostsAreInvisibleToTheProgram : Prop :=
  ∀ (es : List Event) (s t : State), performAll es s = .next t →
    ∃ t', performAll (es.filter Event.notPost) s = .next t' ∧ programView t' = programView t

/-- `41_moves_nop_halt.md` R128, `40_pipeline.md` R107: once `RUN = 0` there is no step and no move, whatever is on the
agenda. That the moves of the environment stop too is the model's inference (log 25), that no tick follows a `TERMINATE`
D17 (log 15). -/
def Obligations.HaltIsPermanent : Prop :=
  ∀ s : State, s.run = false → step s = .fault .clockStopped ∧ ∀ e : Event, perform e s = .fault .clockStopped

/-! ### The step -/

/-- When the bytes at `PC` decode to an instruction, the step is its meaning followed by its `InterruptCheck` tick, unless
it has cleared `RUN` or has not reached that stage (`40_pipeline.md` R92, R101, R102, R106). A step is one instruction by
the model's choice (log 23). -/
def Obligations.StepRunsTheDecodedInstruction : Prop :=
  ∀ (s : State) (i : Instr) (rest : List Byte), s.run = true → s.agenda = [] → s.stage = .fetch →
    decode s.x (fetchedBytes s) = .ok (i, rest) →
    i.wellFormed s.x = true ∧ ∃ t, exec i s = .next t ∧
      step s = .next (if t.run = true ∧ t.stage = .interruptCheck then tick t else t)

/-- The step is the spec's tick, iterated: from `Fetch` as many ticks as `70_reset_and_hazards.md` R215 gives the
instruction, with one exception, and in the middle of an instruction one; the Clock runs before each (`40_pipeline.md`
R90 to R104). The exception is the model's choice (log 23): of a `SYS` that streams a string of `n` bytes, `n` not 0, for
which R215 gives `n + 5` ticks, the step makes the first 4 and each later step one more. The counts of an unrecognized
opcode and of a string depend on D9 and D10 (log 8 and 9). -/
def Obligations.StepIsTheTicksOfTheInstruction : Prop :=
  ∀ s : State, s.run = true → s.agenda = [] → Quiet s →
    (s.stage = .fetch → step s = .next (ticks (instructionTicks s) s) ∧
      ∀ j < instructionTicks s, (ticks j s).run = true) ∧
    (s.stage ≠ .fetch → step s = .next (ticks 1 s))

/-- `40_pipeline.md` R106: a step from `Fetch` ends at the next instruction's `Fetch`, or with the Clock stopped by `BRK`,
or inside a string that is still streaming (log 23). -/
def Obligations.StepEndsAtAnInstructionBoundary : Prop :=
  ∀ s t : State, s.run = true → s.agenda = [] → Quiet s → s.stage = .fetch → step s = .next t →
    t.stage = .fetch ∨ (t.run = false ∧ t.ir = Opcode.brk.byte) ∨
      (t.stage = .execute1 ∧ t.ir = Opcode.sys.byte ∧ t.x = 3#8)

/-- `60_exceptions.md` R170, R175; `40_pipeline.md` R107: with nothing on the agenda every state either steps or has its
Clock stopped; no instruction faults or is refused. The one refusal of a step is of a `POST` by an id that no device has,
which is always refused (the model's choice, log 29). -/
def Obligations.NoInstructionStopsTheMachine : Prop :=
  (∀ s : State, s.agenda = [] → SafeStep s) ∧
  (∀ (s : State) (f : Fault), step s = .fault f → s.run = false) ∧
  (∀ (s : State) (r : Refusal), step s = .refused r →
    ∃ d item rest, s.agenda = .post d item :: rest ∧ s.devices.length ≤ d ∧ r = .unknownDevice d) ∧
  (∀ (d : Nat) (item : Item) (s : State), s.devices.length ≤ d → postEvent d item s = .refused (.unknownDevice d))

/-- `60_exceptions.md` R186, `40_pipeline.md` R90: while `RUN = 1` the move `TICK` is the tick, and `POST` and `TERMINATE`
are the two events; steps through an agenda of moves are those moves, in order (the agenda is the model's own field, log
14). -/
def Obligations.AgendaIsTheInterleaving : Prop :=
  (∀ s : State, s.run = true → perform .tick s = .next (tick s)) ∧
  (∀ (d : Nat) (item : Item) (s : State), s.run = true → perform (.post d item) s = postEvent d item s) ∧
  (∀ s : State, s.run = true → perform .terminate s = .next (terminateEvent s)) ∧
  ∀ (es : List Event) (s : State), s.agenda = [] →
    Host.Core.run Sys2Proof.core es.length ({ s with agenda := es } : State) = performAll es s

/-! ### Reset and the invariant -/

/-- `70_reset_and_hazards.md` R200: the reset state. Memory's zeroes are stated by the source; the other values are the
spec's decision D7 (log 6), the empty output D13 (log 11), the one device the keyboard D21 (log 19), the agenda the
model's own (log 14). -/
def Obligations.ResetValues : Prop :=
  (∀ a : Addr, State.reset.mem.read a = 0#8) ∧
  State.reset.acc = 0#8 ∧ State.reset.x = 0#8 ∧ State.reset.y = 0#8 ∧ State.reset.z = false ∧
  State.reset.pc = 0#16 ∧ State.reset.ir = 0#8 ∧ State.reset.stage = .fetch ∧ State.reset.run = true ∧
  State.reset.ar = 0#16 ∧ State.reset.dr = 0#8 ∧ State.reset.pr = false ∧ State.reset.pw = false ∧
  State.reset.lo = 0#8 ∧ State.reset.hi = 0#8 ∧ State.reset.iq = [] ∧ State.reset.out = [] ∧
  State.reset.devices =
    [{ irq := Config.kbdIrq, prio := Config.kbdPriority, name := Config.kbdName, buf := [] }] ∧
  State.reset.agenda = [] ∧
  ∀ d : Nat, bufOf State.reset.devices d = []

/-- The invariant holds at reset (R200). -/
def Obligations.ResetMeetsTheInvariant : Prop :=
  Invariant State.reset

/-- Every state the Clock can be started from meets the invariant and runs (R203, R204). This rests on the reset values
of D7 (log 6): `STAGE` at `Fetch`, an empty queue, `PW` and `PR` clear, and `RUN = 1`, which is DEDUCED there; and on
the load precondition D20 (log 18), by which a program is loaded only before the first tick. The devices of a start
state, the keyboard and those registered with it, are log 19. -/
def Obligations.BootStatesMeetTheInvariant : Prop :=
  ∀ s : State, Boot s → Invariant s ∧ s.run = true ∧ s.stage = .fetch ∧ s.iq = []

/-- Every step keeps the invariant, a move of the agenda or an instruction: memory stays canonical, nothing is pending
(R25), the queue stays sorted (R29) with a buffered item for every entry (R189), and the stages stay consistent with `IR`
and `AR` (R97 to R100). -/
def Obligations.StepKeepsTheInvariant : Prop :=
  ∀ s t : State, Invariant s → step s = .next t → Invariant t

/-- The same for a single tick (R104). -/
def Obligations.TickKeepsTheInvariant : Prop :=
  ∀ s : State, Invariant s → Invariant (tick s)

/-! ### The parameter `OPC` -/

/-- `30_encoding.md` R77: the default table has 18 distinct bytes, and the machine is the same under every table that
has: the tick of a recognized opcode is the default table's tick of the same instruction, but for the byte in `IR`. A
`Fetch` does not look at the table, and a byte that is in no row of it is the diagnostic (D9, log 8). The default bytes
are general knowledge (D1, log 1). -/
def Obligations.OpcodeTableOnlySpellsInstructions : Prop :=
  Opcode.defaultTable.wf = true ∧
  (∀ (opc : OpcodeTable) (s : State), s.stage = .fetch → tick s opc = tick s) ∧
  (∀ (opc : OpcodeTable) (o : Opcode) (s : State), opc.wf = true → s.stage ≠ .fetch → s.ir = o.byte opc →
    tick s opc = { tick { s with ir := o.byte } with ir := o.byte opc }) ∧
  (∀ (opc : OpcodeTable) (s : State), Quiet s → (∀ o : Opcode, o.byte opc ≠ s.ir) →
    (s.stage = .decode1 → tick s opc = { s with stage := .execute1 }) ∧
    (s.stage = .execute1 →
      tick s opc = { s with out := s.out ++ [.diag .decodeFault s.ir], stage := .interruptCheck }))
end

