-- ==== Sys2Proof/Laws/Decode.lean ====
section
/-! SUPPORT. The laws of the opcode lookup and of address assembly. -/

namespace Sys2Proof

theorem Opcode.mem_all (o : Opcode) : o ∈ Opcode.all := by
  cases o <;> decide

/-- Distinct values make the table an injection (`30_encoding.md` R77). -/
theorem OpcodeTable.wf_injective (opc : OpcodeTable) (h : opc.wf = true) (o p : Opcode) (e : o.byte opc = p.byte opc) :
    o = p :=
  List.inj_on_of_nodup_map (of_decide_eq_true h) (Opcode.mem_all o) (Opcode.mem_all p) e

/-- The default table is one that R77 admits. -/
theorem Opcode.defaultTable_wf : Opcode.defaultTable.wf = true := by decide

theorem Opcode.byte_of_ofByte {b : Byte} {o : Opcode} {opc : OpcodeTable} (h : Opcode.ofByte b opc = some o) :
    o.byte opc = b := by
  have := List.find?_some h
  simpa using this

/-- Under any table with distinct values the lookup finds every opcode by its byte. -/
theorem Opcode.ofByte_byte_of_wf (o : Opcode) (opc : OpcodeTable) (h : opc.wf = true) :
    Opcode.ofByte (o.byte opc) opc = some o := by
  cases hb : Opcode.ofByte (o.byte opc) opc with
  | none => exact absurd (List.find?_eq_none.mp hb o (Opcode.mem_all o)) (by simp)
  | some p => rw [opc.wf_injective h p o (Opcode.byte_of_ofByte hb)]

/-- The lookup finds every opcode by its byte. -/
@[simp] theorem Opcode.ofByte_byte (o : Opcode) : Opcode.ofByte o.byte = some o :=
  Opcode.ofByte_byte_of_wf o _ Opcode.defaultTable_wf

/-- The 18 opcode bytes of the default table are pairwise distinct. -/
theorem Opcode.byte_injective (o p : Opcode) (h : o.byte = p.byte) : o = p :=
  Opcode.defaultTable.wf_injective Opcode.defaultTable_wf o p h

theorem Opcode.ofByte_eq_some {b : Byte} {o : Opcode} : Opcode.ofByte b = some o ↔ o.byte = b :=
  ⟨Opcode.byte_of_ofByte, fun h => h ▸ Opcode.ofByte_byte o⟩

/-- An unrecognized byte, under any table. -/
theorem Opcode.ofByte_eq_none {b : Byte} {opc : OpcodeTable} :
    Opcode.ofByte b opc = none ↔ ∀ o : Opcode, o.byte opc ≠ b := by
  constructor
  · intro h o
    simpa using List.find?_eq_none.mp h o (Opcode.mem_all o)
  · intro h
    exact List.find?_eq_none.mpr (fun o _ => by simpa using h o)

@[simp] theorem operandCount_byte (o : Opcode) : operandCount o.byte = some o.operandCount := by
  simp [operandCount]

/-- The value of an assembled address (`20_memory.md` R55). -/
theorem toNat_assemble (hi lo : Byte) : (assemble hi lo).toNat = hi.toNat * 256 + lo.toNat := by
  have := lo.isLt
  rw [assemble, BitVec.toNat_append, Nat.shiftLeft_eq, Nat.mul_comm, ← Nat.two_pow_add_eq_or_of_lt this]

@[simp] theorem assemble_bytes (a : Addr) : assemble (highByte a) (lowByte a) = a := by
  apply BitVec.eq_of_toNat_eq
  rw [toNat_assemble]
  have := a.isLt
  simp only [highByte, lowByte, BitVec.extractLsb'_toNat, Nat.shiftRight_eq_div_pow]
  omega

@[simp] theorem lowByte_assemble (hi lo : Byte) : lowByte (assemble hi lo) = lo := by
  apply BitVec.eq_of_toNat_eq
  have h := toNat_assemble hi lo
  have := lo.isLt
  simp only [lowByte, BitVec.extractLsb'_toNat, Nat.shiftRight_eq_div_pow, h]
  omega

@[simp] theorem highByte_assemble (hi lo : Byte) : highByte (assemble hi lo) = hi := by
  apply BitVec.eq_of_toNat_eq
  have h := toNat_assemble hi lo
  have := lo.isLt
  have := hi.isLt
  simp only [highByte, BitVec.extractLsb'_toNat, Nat.shiftRight_eq_div_pow, h]
  omega

/-- Two addresses are equal when their bytes are. -/
theorem assemble_inj {h h' l l' : Byte} (e : assemble h l = assemble h' l') : h = h' ∧ l = l' := by
  have hh := congrArg highByte e
  have hl := congrArg lowByte e
  simp only [highByte_assemble, lowByte_assemble] at hh hl
  exact ⟨hh, hl⟩

/-- The instruction decoded from an opcode byte has that opcode. -/
theorem opcode_instrOf (x b1 b2 : Byte) (o : Opcode) : (instrOf x o b1 b2).opcode = o := by
  cases o
  case sys => by_cases hx : x = 1#8 <;> simp [instrOf, Instr.opcode, hx]
  all_goals rfl

end Sys2Proof
end

