-- ==== Sys2Proof/Laws/State.lean ====
section
/-! SUPPORT. For each named operation, what every field of the state is after it: one lemma per field, true by
definition, so that no later proof unfolds a record update. -/

namespace Sys2Proof.Machine

/-! ### `setAddress` -/

@[simp] theorem setAddress_acc (a : Addr) (s : State) : (setAddress a s).acc = s.acc := rfl
@[simp] theorem setAddress_x (a : Addr) (s : State) : (setAddress a s).x = s.x := rfl
@[simp] theorem setAddress_y (a : Addr) (s : State) : (setAddress a s).y = s.y := rfl
@[simp] theorem setAddress_z (a : Addr) (s : State) : (setAddress a s).z = s.z := rfl
@[simp] theorem setAddress_pc (a : Addr) (s : State) : (setAddress a s).pc = s.pc := rfl
@[simp] theorem setAddress_ir (a : Addr) (s : State) : (setAddress a s).ir = s.ir := rfl
@[simp] theorem setAddress_stage (a : Addr) (s : State) : (setAddress a s).stage = s.stage := rfl
@[simp] theorem setAddress_run (a : Addr) (s : State) : (setAddress a s).run = s.run := rfl
@[simp] theorem setAddress_mem (a : Addr) (s : State) : (setAddress a s).mem = s.mem := rfl
@[simp] theorem setAddress_ar (a : Addr) (s : State) : (setAddress a s).ar = a := rfl
@[simp] theorem setAddress_dr (a : Addr) (s : State) : (setAddress a s).dr = s.dr := rfl
@[simp] theorem setAddress_pr (a : Addr) (s : State) : (setAddress a s).pr = s.pr := rfl
@[simp] theorem setAddress_pw (a : Addr) (s : State) : (setAddress a s).pw = s.pw := rfl
@[simp] theorem setAddress_lo (a : Addr) (s : State) : (setAddress a s).lo = s.lo := rfl
@[simp] theorem setAddress_hi (a : Addr) (s : State) : (setAddress a s).hi = s.hi := rfl
@[simp] theorem setAddress_devices (a : Addr) (s : State) : (setAddress a s).devices = s.devices := rfl
@[simp] theorem setAddress_iq (a : Addr) (s : State) : (setAddress a s).iq = s.iq := rfl
@[simp] theorem setAddress_out (a : Addr) (s : State) : (setAddress a s).out = s.out := rfl
@[simp] theorem setAddress_agenda (a : Addr) (s : State) : (setAddress a s).agenda = s.agenda := rfl

/-! ### `setData` -/

@[simp] theorem setData_acc (b : Byte) (s : State) : (setData b s).acc = s.acc := rfl
@[simp] theorem setData_x (b : Byte) (s : State) : (setData b s).x = s.x := rfl
@[simp] theorem setData_y (b : Byte) (s : State) : (setData b s).y = s.y := rfl
@[simp] theorem setData_z (b : Byte) (s : State) : (setData b s).z = s.z := rfl
@[simp] theorem setData_pc (b : Byte) (s : State) : (setData b s).pc = s.pc := rfl
@[simp] theorem setData_ir (b : Byte) (s : State) : (setData b s).ir = s.ir := rfl
@[simp] theorem setData_stage (b : Byte) (s : State) : (setData b s).stage = s.stage := rfl
@[simp] theorem setData_run (b : Byte) (s : State) : (setData b s).run = s.run := rfl
@[simp] theorem setData_mem (b : Byte) (s : State) : (setData b s).mem = s.mem := rfl
@[simp] theorem setData_ar (b : Byte) (s : State) : (setData b s).ar = s.ar := rfl
@[simp] theorem setData_dr (b : Byte) (s : State) : (setData b s).dr = b := rfl
@[simp] theorem setData_pr (b : Byte) (s : State) : (setData b s).pr = s.pr := rfl
@[simp] theorem setData_pw (b : Byte) (s : State) : (setData b s).pw = s.pw := rfl
@[simp] theorem setData_lo (b : Byte) (s : State) : (setData b s).lo = s.lo := rfl
@[simp] theorem setData_hi (b : Byte) (s : State) : (setData b s).hi = s.hi := rfl
@[simp] theorem setData_devices (b : Byte) (s : State) : (setData b s).devices = s.devices := rfl
@[simp] theorem setData_iq (b : Byte) (s : State) : (setData b s).iq = s.iq := rfl
@[simp] theorem setData_out (b : Byte) (s : State) : (setData b s).out = s.out := rfl
@[simp] theorem setData_agenda (b : Byte) (s : State) : (setData b s).agenda = s.agenda := rfl

/-! ### `setPendingRead` -/

@[simp] theorem setPendingRead_acc (b : Bool) (s : State) : (setPendingRead b s).acc = s.acc := rfl
@[simp] theorem setPendingRead_x (b : Bool) (s : State) : (setPendingRead b s).x = s.x := rfl
@[simp] theorem setPendingRead_y (b : Bool) (s : State) : (setPendingRead b s).y = s.y := rfl
@[simp] theorem setPendingRead_z (b : Bool) (s : State) : (setPendingRead b s).z = s.z := rfl
@[simp] theorem setPendingRead_pc (b : Bool) (s : State) : (setPendingRead b s).pc = s.pc := rfl
@[simp] theorem setPendingRead_ir (b : Bool) (s : State) : (setPendingRead b s).ir = s.ir := rfl
@[simp] theorem setPendingRead_stage (b : Bool) (s : State) : (setPendingRead b s).stage = s.stage := rfl
@[simp] theorem setPendingRead_run (b : Bool) (s : State) : (setPendingRead b s).run = s.run := rfl
@[simp] theorem setPendingRead_mem (b : Bool) (s : State) : (setPendingRead b s).mem = s.mem := rfl
@[simp] theorem setPendingRead_ar (b : Bool) (s : State) : (setPendingRead b s).ar = s.ar := rfl
@[simp] theorem setPendingRead_dr (b : Bool) (s : State) : (setPendingRead b s).dr = s.dr := rfl
@[simp] theorem setPendingRead_pr (b : Bool) (s : State) : (setPendingRead b s).pr = b := rfl
@[simp] theorem setPendingRead_pw (b : Bool) (s : State) : (setPendingRead b s).pw = s.pw := rfl
@[simp] theorem setPendingRead_lo (b : Bool) (s : State) : (setPendingRead b s).lo = s.lo := rfl
@[simp] theorem setPendingRead_hi (b : Bool) (s : State) : (setPendingRead b s).hi = s.hi := rfl
@[simp] theorem setPendingRead_devices (b : Bool) (s : State) : (setPendingRead b s).devices = s.devices := rfl
@[simp] theorem setPendingRead_iq (b : Bool) (s : State) : (setPendingRead b s).iq = s.iq := rfl
@[simp] theorem setPendingRead_out (b : Bool) (s : State) : (setPendingRead b s).out = s.out := rfl
@[simp] theorem setPendingRead_agenda (b : Bool) (s : State) : (setPendingRead b s).agenda = s.agenda := rfl

/-! ### `setPendingWrite` -/

@[simp] theorem setPendingWrite_acc (b : Bool) (s : State) : (setPendingWrite b s).acc = s.acc := rfl
@[simp] theorem setPendingWrite_x (b : Bool) (s : State) : (setPendingWrite b s).x = s.x := rfl
@[simp] theorem setPendingWrite_y (b : Bool) (s : State) : (setPendingWrite b s).y = s.y := rfl
@[simp] theorem setPendingWrite_z (b : Bool) (s : State) : (setPendingWrite b s).z = s.z := rfl
@[simp] theorem setPendingWrite_pc (b : Bool) (s : State) : (setPendingWrite b s).pc = s.pc := rfl
@[simp] theorem setPendingWrite_ir (b : Bool) (s : State) : (setPendingWrite b s).ir = s.ir := rfl
@[simp] theorem setPendingWrite_stage (b : Bool) (s : State) : (setPendingWrite b s).stage = s.stage := rfl
@[simp] theorem setPendingWrite_run (b : Bool) (s : State) : (setPendingWrite b s).run = s.run := rfl
@[simp] theorem setPendingWrite_mem (b : Bool) (s : State) : (setPendingWrite b s).mem = s.mem := rfl
@[simp] theorem setPendingWrite_ar (b : Bool) (s : State) : (setPendingWrite b s).ar = s.ar := rfl
@[simp] theorem setPendingWrite_dr (b : Bool) (s : State) : (setPendingWrite b s).dr = s.dr := rfl
@[simp] theorem setPendingWrite_pr (b : Bool) (s : State) : (setPendingWrite b s).pr = s.pr := rfl
@[simp] theorem setPendingWrite_pw (b : Bool) (s : State) : (setPendingWrite b s).pw = b := rfl
@[simp] theorem setPendingWrite_lo (b : Bool) (s : State) : (setPendingWrite b s).lo = s.lo := rfl
@[simp] theorem setPendingWrite_hi (b : Bool) (s : State) : (setPendingWrite b s).hi = s.hi := rfl
@[simp] theorem setPendingWrite_devices (b : Bool) (s : State) : (setPendingWrite b s).devices = s.devices := rfl
@[simp] theorem setPendingWrite_iq (b : Bool) (s : State) : (setPendingWrite b s).iq = s.iq := rfl
@[simp] theorem setPendingWrite_out (b : Bool) (s : State) : (setPendingWrite b s).out = s.out := rfl
@[simp] theorem setPendingWrite_agenda (b : Bool) (s : State) : (setPendingWrite b s).agenda = s.agenda := rfl

/-! ### `readNow` -/

@[simp] theorem readNow_acc (s : State) : (readNow s).acc = s.acc := rfl
@[simp] theorem readNow_x (s : State) : (readNow s).x = s.x := rfl
@[simp] theorem readNow_y (s : State) : (readNow s).y = s.y := rfl
@[simp] theorem readNow_z (s : State) : (readNow s).z = s.z := rfl
@[simp] theorem readNow_pc (s : State) : (readNow s).pc = s.pc := rfl
@[simp] theorem readNow_ir (s : State) : (readNow s).ir = s.ir := rfl
@[simp] theorem readNow_stage (s : State) : (readNow s).stage = s.stage := rfl
@[simp] theorem readNow_run (s : State) : (readNow s).run = s.run := rfl
@[simp] theorem readNow_mem (s : State) : (readNow s).mem = s.mem := rfl
@[simp] theorem readNow_ar (s : State) : (readNow s).ar = s.ar := rfl
@[simp] theorem readNow_dr (s : State) : (readNow s).dr = s.mem.read s.ar := rfl
@[simp] theorem readNow_pr (s : State) : (readNow s).pr = s.pr := rfl
@[simp] theorem readNow_pw (s : State) : (readNow s).pw = s.pw := rfl
@[simp] theorem readNow_lo (s : State) : (readNow s).lo = s.lo := rfl
@[simp] theorem readNow_hi (s : State) : (readNow s).hi = s.hi := rfl
@[simp] theorem readNow_devices (s : State) : (readNow s).devices = s.devices := rfl
@[simp] theorem readNow_iq (s : State) : (readNow s).iq = s.iq := rfl
@[simp] theorem readNow_out (s : State) : (readNow s).out = s.out := rfl
@[simp] theorem readNow_agenda (s : State) : (readNow s).agenda = s.agenda := rfl

/-! ### `writeNow` -/

@[simp] theorem writeNow_acc (s : State) : (writeNow s).acc = s.acc := rfl
@[simp] theorem writeNow_x (s : State) : (writeNow s).x = s.x := rfl
@[simp] theorem writeNow_y (s : State) : (writeNow s).y = s.y := rfl
@[simp] theorem writeNow_z (s : State) : (writeNow s).z = s.z := rfl
@[simp] theorem writeNow_pc (s : State) : (writeNow s).pc = s.pc := rfl
@[simp] theorem writeNow_ir (s : State) : (writeNow s).ir = s.ir := rfl
@[simp] theorem writeNow_stage (s : State) : (writeNow s).stage = s.stage := rfl
@[simp] theorem writeNow_run (s : State) : (writeNow s).run = s.run := rfl
@[simp] theorem writeNow_mem (s : State) : (writeNow s).mem = s.mem.write s.ar s.dr := rfl
@[simp] theorem writeNow_ar (s : State) : (writeNow s).ar = s.ar := rfl
@[simp] theorem writeNow_dr (s : State) : (writeNow s).dr = s.dr := rfl
@[simp] theorem writeNow_pr (s : State) : (writeNow s).pr = s.pr := rfl
@[simp] theorem writeNow_pw (s : State) : (writeNow s).pw = s.pw := rfl
@[simp] theorem writeNow_lo (s : State) : (writeNow s).lo = s.lo := rfl
@[simp] theorem writeNow_hi (s : State) : (writeNow s).hi = s.hi := rfl
@[simp] theorem writeNow_devices (s : State) : (writeNow s).devices = s.devices := rfl
@[simp] theorem writeNow_iq (s : State) : (writeNow s).iq = s.iq := rfl
@[simp] theorem writeNow_out (s : State) : (writeNow s).out = s.out := rfl
@[simp] theorem writeNow_agenda (s : State) : (writeNow s).agenda = s.agenda := rfl

/-! ### `memoryReset` -/

@[simp] theorem memoryReset_acc (s : State) : (memoryReset s).acc = s.acc := rfl
@[simp] theorem memoryReset_x (s : State) : (memoryReset s).x = s.x := rfl
@[simp] theorem memoryReset_y (s : State) : (memoryReset s).y = s.y := rfl
@[simp] theorem memoryReset_z (s : State) : (memoryReset s).z = s.z := rfl
@[simp] theorem memoryReset_pc (s : State) : (memoryReset s).pc = s.pc := rfl
@[simp] theorem memoryReset_ir (s : State) : (memoryReset s).ir = s.ir := rfl
@[simp] theorem memoryReset_stage (s : State) : (memoryReset s).stage = s.stage := rfl
@[simp] theorem memoryReset_run (s : State) : (memoryReset s).run = s.run := rfl
@[simp] theorem memoryReset_mem (s : State) : (memoryReset s).mem = [] := rfl
@[simp] theorem memoryReset_ar (s : State) : (memoryReset s).ar = s.ar := rfl
@[simp] theorem memoryReset_dr (s : State) : (memoryReset s).dr = s.dr := rfl
@[simp] theorem memoryReset_pr (s : State) : (memoryReset s).pr = s.pr := rfl
@[simp] theorem memoryReset_pw (s : State) : (memoryReset s).pw = s.pw := rfl
@[simp] theorem memoryReset_lo (s : State) : (memoryReset s).lo = s.lo := rfl
@[simp] theorem memoryReset_hi (s : State) : (memoryReset s).hi = s.hi := rfl
@[simp] theorem memoryReset_devices (s : State) : (memoryReset s).devices = s.devices := rfl
@[simp] theorem memoryReset_iq (s : State) : (memoryReset s).iq = s.iq := rfl
@[simp] theorem memoryReset_out (s : State) : (memoryReset s).out = s.out := rfl
@[simp] theorem memoryReset_agenda (s : State) : (memoryReset s).agenda = s.agenda := rfl

/-! ### `emit` -/

@[simp] theorem emit_acc (e : OutEvent) (s : State) : (emit e s).acc = s.acc := rfl
@[simp] theorem emit_x (e : OutEvent) (s : State) : (emit e s).x = s.x := rfl
@[simp] theorem emit_y (e : OutEvent) (s : State) : (emit e s).y = s.y := rfl
@[simp] theorem emit_z (e : OutEvent) (s : State) : (emit e s).z = s.z := rfl
@[simp] theorem emit_pc (e : OutEvent) (s : State) : (emit e s).pc = s.pc := rfl
@[simp] theorem emit_ir (e : OutEvent) (s : State) : (emit e s).ir = s.ir := rfl
@[simp] theorem emit_stage (e : OutEvent) (s : State) : (emit e s).stage = s.stage := rfl
@[simp] theorem emit_run (e : OutEvent) (s : State) : (emit e s).run = s.run := rfl
@[simp] theorem emit_mem (e : OutEvent) (s : State) : (emit e s).mem = s.mem := rfl
@[simp] theorem emit_ar (e : OutEvent) (s : State) : (emit e s).ar = s.ar := rfl
@[simp] theorem emit_dr (e : OutEvent) (s : State) : (emit e s).dr = s.dr := rfl
@[simp] theorem emit_pr (e : OutEvent) (s : State) : (emit e s).pr = s.pr := rfl
@[simp] theorem emit_pw (e : OutEvent) (s : State) : (emit e s).pw = s.pw := rfl
@[simp] theorem emit_lo (e : OutEvent) (s : State) : (emit e s).lo = s.lo := rfl
@[simp] theorem emit_hi (e : OutEvent) (s : State) : (emit e s).hi = s.hi := rfl
@[simp] theorem emit_devices (e : OutEvent) (s : State) : (emit e s).devices = s.devices := rfl
@[simp] theorem emit_iq (e : OutEvent) (s : State) : (emit e s).iq = s.iq := rfl
@[simp] theorem emit_out (e : OutEvent) (s : State) : (emit e s).out = s.out ++ [e] := rfl
@[simp] theorem emit_agenda (e : OutEvent) (s : State) : (emit e s).agenda = s.agenda := rfl

/-! ### `retire` -/

@[simp] theorem retire_acc (s : State) : (retire s).acc = s.acc := rfl
@[simp] theorem retire_x (s : State) : (retire s).x = s.x := rfl
@[simp] theorem retire_y (s : State) : (retire s).y = s.y := rfl
@[simp] theorem retire_z (s : State) : (retire s).z = s.z := rfl
@[simp] theorem retire_pc (s : State) : (retire s).pc = s.pc := rfl
@[simp] theorem retire_ir (s : State) : (retire s).ir = s.ir := rfl
@[simp] theorem retire_stage (s : State) : (retire s).stage = .interruptCheck := rfl
@[simp] theorem retire_run (s : State) : (retire s).run = s.run := rfl
@[simp] theorem retire_mem (s : State) : (retire s).mem = s.mem := rfl
@[simp] theorem retire_ar (s : State) : (retire s).ar = s.ar := rfl
@[simp] theorem retire_dr (s : State) : (retire s).dr = s.dr := rfl
@[simp] theorem retire_pr (s : State) : (retire s).pr = s.pr := rfl
@[simp] theorem retire_pw (s : State) : (retire s).pw = s.pw := rfl
@[simp] theorem retire_lo (s : State) : (retire s).lo = s.lo := rfl
@[simp] theorem retire_hi (s : State) : (retire s).hi = s.hi := rfl
@[simp] theorem retire_devices (s : State) : (retire s).devices = s.devices := rfl
@[simp] theorem retire_iq (s : State) : (retire s).iq = s.iq := rfl
@[simp] theorem retire_out (s : State) : (retire s).out = s.out := rfl
@[simp] theorem retire_agenda (s : State) : (retire s).agenda = s.agenda := rfl

/-! ### `consume` -/

@[simp] theorem consume_acc (b : Byte) (s : State) : (consume b s).acc = s.acc := rfl
@[simp] theorem consume_x (b : Byte) (s : State) : (consume b s).x = s.x := rfl
@[simp] theorem consume_y (b : Byte) (s : State) : (consume b s).y = s.y := rfl
@[simp] theorem consume_z (b : Byte) (s : State) : (consume b s).z = s.z := rfl
@[simp] theorem consume_pc (b : Byte) (s : State) : (consume b s).pc = s.pc + 1#16 := rfl
@[simp] theorem consume_ir (b : Byte) (s : State) : (consume b s).ir = s.ir := rfl
@[simp] theorem consume_stage (b : Byte) (s : State) : (consume b s).stage = s.stage := rfl
@[simp] theorem consume_run (b : Byte) (s : State) : (consume b s).run = s.run := rfl
@[simp] theorem consume_mem (b : Byte) (s : State) : (consume b s).mem = s.mem := rfl
@[simp] theorem consume_ar (b : Byte) (s : State) : (consume b s).ar = s.pc := rfl
@[simp] theorem consume_dr (b : Byte) (s : State) : (consume b s).dr = b := rfl
@[simp] theorem consume_pr (b : Byte) (s : State) : (consume b s).pr = s.pr := rfl
@[simp] theorem consume_pw (b : Byte) (s : State) : (consume b s).pw = s.pw := rfl
@[simp] theorem consume_lo (b : Byte) (s : State) : (consume b s).lo = s.lo := rfl
@[simp] theorem consume_hi (b : Byte) (s : State) : (consume b s).hi = s.hi := rfl
@[simp] theorem consume_devices (b : Byte) (s : State) : (consume b s).devices = s.devices := rfl
@[simp] theorem consume_iq (b : Byte) (s : State) : (consume b s).iq = s.iq := rfl
@[simp] theorem consume_out (b : Byte) (s : State) : (consume b s).out = s.out := rfl
@[simp] theorem consume_agenda (b : Byte) (s : State) : (consume b s).agenda = s.agenda := rfl

/-! ### `fetchStage` -/

@[simp] theorem fetchStage_acc (b : Byte) (s : State) : (fetchStage b s).acc = s.acc := rfl
@[simp] theorem fetchStage_x (b : Byte) (s : State) : (fetchStage b s).x = s.x := rfl
@[simp] theorem fetchStage_y (b : Byte) (s : State) : (fetchStage b s).y = s.y := rfl
@[simp] theorem fetchStage_z (b : Byte) (s : State) : (fetchStage b s).z = s.z := rfl
@[simp] theorem fetchStage_pc (b : Byte) (s : State) : (fetchStage b s).pc = s.pc + 1#16 := rfl
@[simp] theorem fetchStage_ir (b : Byte) (s : State) : (fetchStage b s).ir = b := rfl
@[simp] theorem fetchStage_stage (b : Byte) (s : State) : (fetchStage b s).stage = .decode1 := rfl
@[simp] theorem fetchStage_run (b : Byte) (s : State) : (fetchStage b s).run = s.run := rfl
@[simp] theorem fetchStage_mem (b : Byte) (s : State) : (fetchStage b s).mem = s.mem := rfl
@[simp] theorem fetchStage_ar (b : Byte) (s : State) : (fetchStage b s).ar = s.pc := rfl
@[simp] theorem fetchStage_dr (b : Byte) (s : State) : (fetchStage b s).dr = b := rfl
@[simp] theorem fetchStage_pr (b : Byte) (s : State) : (fetchStage b s).pr = s.pr := rfl
@[simp] theorem fetchStage_pw (b : Byte) (s : State) : (fetchStage b s).pw = s.pw := rfl
@[simp] theorem fetchStage_lo (b : Byte) (s : State) : (fetchStage b s).lo = s.lo := rfl
@[simp] theorem fetchStage_hi (b : Byte) (s : State) : (fetchStage b s).hi = s.hi := rfl
@[simp] theorem fetchStage_devices (b : Byte) (s : State) : (fetchStage b s).devices = s.devices := rfl
@[simp] theorem fetchStage_iq (b : Byte) (s : State) : (fetchStage b s).iq = s.iq := rfl
@[simp] theorem fetchStage_out (b : Byte) (s : State) : (fetchStage b s).out = s.out := rfl
@[simp] theorem fetchStage_agenda (b : Byte) (s : State) : (fetchStage b s).agenda = s.agenda := rfl

/-! ### `decodeNone` -/

@[simp] theorem decodeNone_acc (s : State) : (decodeNone s).acc = s.acc := rfl
@[simp] theorem decodeNone_x (s : State) : (decodeNone s).x = s.x := rfl
@[simp] theorem decodeNone_y (s : State) : (decodeNone s).y = s.y := rfl
@[simp] theorem decodeNone_z (s : State) : (decodeNone s).z = s.z := rfl
@[simp] theorem decodeNone_pc (s : State) : (decodeNone s).pc = s.pc := rfl
@[simp] theorem decodeNone_ir (s : State) : (decodeNone s).ir = s.ir := rfl
@[simp] theorem decodeNone_stage (s : State) : (decodeNone s).stage = .execute1 := rfl
@[simp] theorem decodeNone_run (s : State) : (decodeNone s).run = s.run := rfl
@[simp] theorem decodeNone_mem (s : State) : (decodeNone s).mem = s.mem := rfl
@[simp] theorem decodeNone_ar (s : State) : (decodeNone s).ar = s.ar := rfl
@[simp] theorem decodeNone_dr (s : State) : (decodeNone s).dr = s.dr := rfl
@[simp] theorem decodeNone_pr (s : State) : (decodeNone s).pr = s.pr := rfl
@[simp] theorem decodeNone_pw (s : State) : (decodeNone s).pw = s.pw := rfl
@[simp] theorem decodeNone_lo (s : State) : (decodeNone s).lo = s.lo := rfl
@[simp] theorem decodeNone_hi (s : State) : (decodeNone s).hi = s.hi := rfl
@[simp] theorem decodeNone_devices (s : State) : (decodeNone s).devices = s.devices := rfl
@[simp] theorem decodeNone_iq (s : State) : (decodeNone s).iq = s.iq := rfl
@[simp] theorem decodeNone_out (s : State) : (decodeNone s).out = s.out := rfl
@[simp] theorem decodeNone_agenda (s : State) : (decodeNone s).agenda = s.agenda := rfl

/-! ### `decodeOne` -/

@[simp] theorem decodeOne_acc (b : Byte) (s : State) : (decodeOne b s).acc = s.acc := rfl
@[simp] theorem decodeOne_x (b : Byte) (s : State) : (decodeOne b s).x = s.x := rfl
@[simp] theorem decodeOne_y (b : Byte) (s : State) : (decodeOne b s).y = s.y := rfl
@[simp] theorem decodeOne_z (b : Byte) (s : State) : (decodeOne b s).z = s.z := rfl
@[simp] theorem decodeOne_pc (b : Byte) (s : State) : (decodeOne b s).pc = s.pc + 1#16 := rfl
@[simp] theorem decodeOne_ir (b : Byte) (s : State) : (decodeOne b s).ir = s.ir := rfl
@[simp] theorem decodeOne_stage (b : Byte) (s : State) : (decodeOne b s).stage = .execute1 := rfl
@[simp] theorem decodeOne_run (b : Byte) (s : State) : (decodeOne b s).run = s.run := rfl
@[simp] theorem decodeOne_mem (b : Byte) (s : State) : (decodeOne b s).mem = s.mem := rfl
@[simp] theorem decodeOne_ar (b : Byte) (s : State) : (decodeOne b s).ar = s.pc := rfl
@[simp] theorem decodeOne_dr (b : Byte) (s : State) : (decodeOne b s).dr = b := rfl
@[simp] theorem decodeOne_pr (b : Byte) (s : State) : (decodeOne b s).pr = s.pr := rfl
@[simp] theorem decodeOne_pw (b : Byte) (s : State) : (decodeOne b s).pw = s.pw := rfl
@[simp] theorem decodeOne_lo (b : Byte) (s : State) : (decodeOne b s).lo = s.lo := rfl
@[simp] theorem decodeOne_hi (b : Byte) (s : State) : (decodeOne b s).hi = s.hi := rfl
@[simp] theorem decodeOne_devices (b : Byte) (s : State) : (decodeOne b s).devices = s.devices := rfl
@[simp] theorem decodeOne_iq (b : Byte) (s : State) : (decodeOne b s).iq = s.iq := rfl
@[simp] theorem decodeOne_out (b : Byte) (s : State) : (decodeOne b s).out = s.out := rfl
@[simp] theorem decodeOne_agenda (b : Byte) (s : State) : (decodeOne b s).agenda = s.agenda := rfl

/-! ### `decodeLow` -/

@[simp] theorem decodeLow_acc (b : Byte) (s : State) : (decodeLow b s).acc = s.acc := rfl
@[simp] theorem decodeLow_x (b : Byte) (s : State) : (decodeLow b s).x = s.x := rfl
@[simp] theorem decodeLow_y (b : Byte) (s : State) : (decodeLow b s).y = s.y := rfl
@[simp] theorem decodeLow_z (b : Byte) (s : State) : (decodeLow b s).z = s.z := rfl
@[simp] theorem decodeLow_pc (b : Byte) (s : State) : (decodeLow b s).pc = s.pc + 1#16 := rfl
@[simp] theorem decodeLow_ir (b : Byte) (s : State) : (decodeLow b s).ir = s.ir := rfl
@[simp] theorem decodeLow_stage (b : Byte) (s : State) : (decodeLow b s).stage = .decode2 := rfl
@[simp] theorem decodeLow_run (b : Byte) (s : State) : (decodeLow b s).run = s.run := rfl
@[simp] theorem decodeLow_mem (b : Byte) (s : State) : (decodeLow b s).mem = s.mem := rfl
@[simp] theorem decodeLow_ar (b : Byte) (s : State) : (decodeLow b s).ar = s.pc := rfl
@[simp] theorem decodeLow_dr (b : Byte) (s : State) : (decodeLow b s).dr = b := rfl
@[simp] theorem decodeLow_pr (b : Byte) (s : State) : (decodeLow b s).pr = s.pr := rfl
@[simp] theorem decodeLow_pw (b : Byte) (s : State) : (decodeLow b s).pw = s.pw := rfl
@[simp] theorem decodeLow_lo (b : Byte) (s : State) : (decodeLow b s).lo = b := rfl
@[simp] theorem decodeLow_hi (b : Byte) (s : State) : (decodeLow b s).hi = s.hi := rfl
@[simp] theorem decodeLow_devices (b : Byte) (s : State) : (decodeLow b s).devices = s.devices := rfl
@[simp] theorem decodeLow_iq (b : Byte) (s : State) : (decodeLow b s).iq = s.iq := rfl
@[simp] theorem decodeLow_out (b : Byte) (s : State) : (decodeLow b s).out = s.out := rfl
@[simp] theorem decodeLow_agenda (b : Byte) (s : State) : (decodeLow b s).agenda = s.agenda := rfl

/-! ### `decodeHigh` -/

@[simp] theorem decodeHigh_acc (b : Byte) (s : State) : (decodeHigh b s).acc = s.acc := rfl
@[simp] theorem decodeHigh_x (b : Byte) (s : State) : (decodeHigh b s).x = s.x := rfl
@[simp] theorem decodeHigh_y (b : Byte) (s : State) : (decodeHigh b s).y = s.y := rfl
@[simp] theorem decodeHigh_z (b : Byte) (s : State) : (decodeHigh b s).z = s.z := rfl
@[simp] theorem decodeHigh_pc (b : Byte) (s : State) : (decodeHigh b s).pc = s.pc + 1#16 := rfl
@[simp] theorem decodeHigh_ir (b : Byte) (s : State) : (decodeHigh b s).ir = s.ir := rfl
@[simp] theorem decodeHigh_stage (b : Byte) (s : State) : (decodeHigh b s).stage = .execute1 := rfl
@[simp] theorem decodeHigh_run (b : Byte) (s : State) : (decodeHigh b s).run = s.run := rfl
@[simp] theorem decodeHigh_mem (b : Byte) (s : State) : (decodeHigh b s).mem = s.mem := rfl
@[simp] theorem decodeHigh_ar (b : Byte) (s : State) : (decodeHigh b s).ar = assemble b s.lo := rfl
@[simp] theorem decodeHigh_dr (b : Byte) (s : State) : (decodeHigh b s).dr = s.mem.read (assemble b s.lo) := rfl
@[simp] theorem decodeHigh_pr (b : Byte) (s : State) : (decodeHigh b s).pr = s.pr := rfl
@[simp] theorem decodeHigh_pw (b : Byte) (s : State) : (decodeHigh b s).pw = s.pw := rfl
@[simp] theorem decodeHigh_lo (b : Byte) (s : State) : (decodeHigh b s).lo = s.lo := rfl
@[simp] theorem decodeHigh_hi (b : Byte) (s : State) : (decodeHigh b s).hi = b := rfl
@[simp] theorem decodeHigh_devices (b : Byte) (s : State) : (decodeHigh b s).devices = s.devices := rfl
@[simp] theorem decodeHigh_iq (b : Byte) (s : State) : (decodeHigh b s).iq = s.iq := rfl
@[simp] theorem decodeHigh_out (b : Byte) (s : State) : (decodeHigh b s).out = s.out := rfl
@[simp] theorem decodeHigh_agenda (b : Byte) (s : State) : (decodeHigh b s).agenda = s.agenda := rfl

/-! ### `latchZero` -/

@[simp] theorem latchZero_acc (e : Bool) (s : State) : (latchZero e s).acc = s.acc := rfl
@[simp] theorem latchZero_x (e : Bool) (s : State) : (latchZero e s).x = s.x := rfl
@[simp] theorem latchZero_y (e : Bool) (s : State) : (latchZero e s).y = s.y := rfl
@[simp] theorem latchZero_z (e : Bool) (s : State) : (latchZero e s).z = (s.z || e) := rfl
@[simp] theorem latchZero_pc (e : Bool) (s : State) : (latchZero e s).pc = s.pc := rfl
@[simp] theorem latchZero_ir (e : Bool) (s : State) : (latchZero e s).ir = s.ir := rfl
@[simp] theorem latchZero_stage (e : Bool) (s : State) : (latchZero e s).stage = s.stage := rfl
@[simp] theorem latchZero_run (e : Bool) (s : State) : (latchZero e s).run = s.run := rfl
@[simp] theorem latchZero_mem (e : Bool) (s : State) : (latchZero e s).mem = s.mem := rfl
@[simp] theorem latchZero_ar (e : Bool) (s : State) : (latchZero e s).ar = s.ar := rfl
@[simp] theorem latchZero_dr (e : Bool) (s : State) : (latchZero e s).dr = s.dr := rfl
@[simp] theorem latchZero_pr (e : Bool) (s : State) : (latchZero e s).pr = s.pr := rfl
@[simp] theorem latchZero_pw (e : Bool) (s : State) : (latchZero e s).pw = s.pw := rfl
@[simp] theorem latchZero_lo (e : Bool) (s : State) : (latchZero e s).lo = s.lo := rfl
@[simp] theorem latchZero_hi (e : Bool) (s : State) : (latchZero e s).hi = s.hi := rfl
@[simp] theorem latchZero_devices (e : Bool) (s : State) : (latchZero e s).devices = s.devices := rfl
@[simp] theorem latchZero_iq (e : Bool) (s : State) : (latchZero e s).iq = s.iq := rfl
@[simp] theorem latchZero_out (e : Bool) (s : State) : (latchZero e s).out = s.out := rfl
@[simp] theorem latchZero_agenda (e : Bool) (s : State) : (latchZero e s).agenda = s.agenda := rfl

/-! ### `acceptInterrupt` -/

@[simp] theorem acceptInterrupt_acc (d : Nat) (s : State) : (acceptInterrupt d s).acc = s.acc := rfl
@[simp] theorem acceptInterrupt_x (d : Nat) (s : State) : (acceptInterrupt d s).x = s.x := rfl
@[simp] theorem acceptInterrupt_y (d : Nat) (s : State) : (acceptInterrupt d s).y = s.y := rfl
@[simp] theorem acceptInterrupt_z (d : Nat) (s : State) : (acceptInterrupt d s).z = s.z := rfl
@[simp] theorem acceptInterrupt_pc (d : Nat) (s : State) : (acceptInterrupt d s).pc = s.pc := rfl
@[simp] theorem acceptInterrupt_ir (d : Nat) (s : State) : (acceptInterrupt d s).ir = s.ir := rfl
@[simp] theorem acceptInterrupt_stage (d : Nat) (s : State) : (acceptInterrupt d s).stage = s.stage := rfl
@[simp] theorem acceptInterrupt_run (d : Nat) (s : State) : (acceptInterrupt d s).run = s.run := rfl
@[simp] theorem acceptInterrupt_mem (d : Nat) (s : State) : (acceptInterrupt d s).mem = s.mem := rfl
@[simp] theorem acceptInterrupt_ar (d : Nat) (s : State) : (acceptInterrupt d s).ar = s.ar := rfl
@[simp] theorem acceptInterrupt_dr (d : Nat) (s : State) : (acceptInterrupt d s).dr = s.dr := rfl
@[simp] theorem acceptInterrupt_pr (d : Nat) (s : State) : (acceptInterrupt d s).pr = s.pr := rfl
@[simp] theorem acceptInterrupt_pw (d : Nat) (s : State) : (acceptInterrupt d s).pw = s.pw := rfl
@[simp] theorem acceptInterrupt_lo (d : Nat) (s : State) : (acceptInterrupt d s).lo = s.lo := rfl
@[simp] theorem acceptInterrupt_hi (d : Nat) (s : State) : (acceptInterrupt d s).hi = s.hi := rfl
@[simp] theorem acceptInterrupt_devices (d : Nat) (s : State) : (acceptInterrupt d s).devices = s.devices := rfl
@[simp] theorem acceptInterrupt_iq (d : Nat) (s : State) : (acceptInterrupt d s).iq = sortByPrio s.devices (s.iq ++ [d]) := rfl
@[simp] theorem acceptInterrupt_out (d : Nat) (s : State) : (acceptInterrupt d s).out = s.out := rfl
@[simp] theorem acceptInterrupt_agenda (d : Nat) (s : State) : (acceptInterrupt d s).agenda = s.agenda := rfl

/-! ### `clearOutputBuffer` -/

@[simp] theorem clearOutputBuffer_acc (s : State) : (clearOutputBuffer s).acc = s.acc := rfl
@[simp] theorem clearOutputBuffer_x (s : State) : (clearOutputBuffer s).x = s.x := rfl
@[simp] theorem clearOutputBuffer_y (s : State) : (clearOutputBuffer s).y = s.y := rfl
@[simp] theorem clearOutputBuffer_z (s : State) : (clearOutputBuffer s).z = s.z := rfl
@[simp] theorem clearOutputBuffer_pc (s : State) : (clearOutputBuffer s).pc = s.pc := rfl
@[simp] theorem clearOutputBuffer_ir (s : State) : (clearOutputBuffer s).ir = s.ir := rfl
@[simp] theorem clearOutputBuffer_stage (s : State) : (clearOutputBuffer s).stage = s.stage := rfl
@[simp] theorem clearOutputBuffer_run (s : State) : (clearOutputBuffer s).run = s.run := rfl
@[simp] theorem clearOutputBuffer_mem (s : State) : (clearOutputBuffer s).mem = s.mem := rfl
@[simp] theorem clearOutputBuffer_ar (s : State) : (clearOutputBuffer s).ar = s.ar := rfl
@[simp] theorem clearOutputBuffer_dr (s : State) : (clearOutputBuffer s).dr = s.dr := rfl
@[simp] theorem clearOutputBuffer_pr (s : State) : (clearOutputBuffer s).pr = s.pr := rfl
@[simp] theorem clearOutputBuffer_pw (s : State) : (clearOutputBuffer s).pw = s.pw := rfl
@[simp] theorem clearOutputBuffer_lo (s : State) : (clearOutputBuffer s).lo = s.lo := rfl
@[simp] theorem clearOutputBuffer_hi (s : State) : (clearOutputBuffer s).hi = s.hi := rfl
@[simp] theorem clearOutputBuffer_devices (s : State) : (clearOutputBuffer s).devices = s.devices := rfl
@[simp] theorem clearOutputBuffer_iq (s : State) : (clearOutputBuffer s).iq = [] := rfl
@[simp] theorem clearOutputBuffer_out (s : State) : (clearOutputBuffer s).out = s.out := rfl
@[simp] theorem clearOutputBuffer_agenda (s : State) : (clearOutputBuffer s).agenda = s.agenda := rfl

/-! ### `bufferItem` -/

@[simp] theorem bufferItem_acc (d : Nat) (i : Item) (s : State) : (bufferItem d i s).acc = s.acc := rfl
@[simp] theorem bufferItem_x (d : Nat) (i : Item) (s : State) : (bufferItem d i s).x = s.x := rfl
@[simp] theorem bufferItem_y (d : Nat) (i : Item) (s : State) : (bufferItem d i s).y = s.y := rfl
@[simp] theorem bufferItem_z (d : Nat) (i : Item) (s : State) : (bufferItem d i s).z = s.z := rfl
@[simp] theorem bufferItem_pc (d : Nat) (i : Item) (s : State) : (bufferItem d i s).pc = s.pc := rfl
@[simp] theorem bufferItem_ir (d : Nat) (i : Item) (s : State) : (bufferItem d i s).ir = s.ir := rfl
@[simp] theorem bufferItem_stage (d : Nat) (i : Item) (s : State) : (bufferItem d i s).stage = s.stage := rfl
@[simp] theorem bufferItem_run (d : Nat) (i : Item) (s : State) : (bufferItem d i s).run = s.run := rfl
@[simp] theorem bufferItem_mem (d : Nat) (i : Item) (s : State) : (bufferItem d i s).mem = s.mem := rfl
@[simp] theorem bufferItem_ar (d : Nat) (i : Item) (s : State) : (bufferItem d i s).ar = s.ar := rfl
@[simp] theorem bufferItem_dr (d : Nat) (i : Item) (s : State) : (bufferItem d i s).dr = s.dr := rfl
@[simp] theorem bufferItem_pr (d : Nat) (i : Item) (s : State) : (bufferItem d i s).pr = s.pr := rfl
@[simp] theorem bufferItem_pw (d : Nat) (i : Item) (s : State) : (bufferItem d i s).pw = s.pw := rfl
@[simp] theorem bufferItem_lo (d : Nat) (i : Item) (s : State) : (bufferItem d i s).lo = s.lo := rfl
@[simp] theorem bufferItem_hi (d : Nat) (i : Item) (s : State) : (bufferItem d i s).hi = s.hi := rfl
@[simp] theorem bufferItem_devices (d : Nat) (i : Item) (s : State) : (bufferItem d i s).devices = setBuf s.devices d (bufOf s.devices d ++ [i]) := rfl
@[simp] theorem bufferItem_iq (d : Nat) (i : Item) (s : State) : (bufferItem d i s).iq = s.iq := rfl
@[simp] theorem bufferItem_out (d : Nat) (i : Item) (s : State) : (bufferItem d i s).out = s.out := rfl
@[simp] theorem bufferItem_agenda (d : Nat) (i : Item) (s : State) : (bufferItem d i s).agenda = s.agenda := rfl

/-! ### `terminateEvent` -/

@[simp] theorem terminateEvent_acc (s : State) : (terminateEvent s).acc = s.acc := rfl
@[simp] theorem terminateEvent_x (s : State) : (terminateEvent s).x = s.x := rfl
@[simp] theorem terminateEvent_y (s : State) : (terminateEvent s).y = s.y := rfl
@[simp] theorem terminateEvent_z (s : State) : (terminateEvent s).z = s.z := rfl
@[simp] theorem terminateEvent_pc (s : State) : (terminateEvent s).pc = s.pc := rfl
@[simp] theorem terminateEvent_ir (s : State) : (terminateEvent s).ir = s.ir := rfl
@[simp] theorem terminateEvent_stage (s : State) : (terminateEvent s).stage = s.stage := rfl
@[simp] theorem terminateEvent_run (s : State) : (terminateEvent s).run = false := rfl
@[simp] theorem terminateEvent_mem (s : State) : (terminateEvent s).mem = s.mem := rfl
@[simp] theorem terminateEvent_ar (s : State) : (terminateEvent s).ar = s.ar := rfl
@[simp] theorem terminateEvent_dr (s : State) : (terminateEvent s).dr = s.dr := rfl
@[simp] theorem terminateEvent_pr (s : State) : (terminateEvent s).pr = s.pr := rfl
@[simp] theorem terminateEvent_pw (s : State) : (terminateEvent s).pw = s.pw := rfl
@[simp] theorem terminateEvent_lo (s : State) : (terminateEvent s).lo = s.lo := rfl
@[simp] theorem terminateEvent_hi (s : State) : (terminateEvent s).hi = s.hi := rfl
@[simp] theorem terminateEvent_devices (s : State) : (terminateEvent s).devices = s.devices := rfl
@[simp] theorem terminateEvent_iq (s : State) : (terminateEvent s).iq = s.iq := rfl
@[simp] theorem terminateEvent_out (s : State) : (terminateEvent s).out = s.out := rfl
@[simp] theorem terminateEvent_agenda (s : State) : (terminateEvent s).agenda = s.agenda := rfl

/-! ### `memoryPulse`: what it never changes (R48) -/

@[simp] theorem memoryPulse_acc (s : State) : (memoryPulse s).acc = s.acc := by
  simp only [memoryPulse, honourRead, honourWrite]
  split <;> split <;> rfl

@[simp] theorem memoryPulse_x (s : State) : (memoryPulse s).x = s.x := by
  simp only [memoryPulse, honourRead, honourWrite]
  split <;> split <;> rfl

@[simp] theorem memoryPulse_y (s : State) : (memoryPulse s).y = s.y := by
  simp only [memoryPulse, honourRead, honourWrite]
  split <;> split <;> rfl

@[simp] theorem memoryPulse_z (s : State) : (memoryPulse s).z = s.z := by
  simp only [memoryPulse, honourRead, honourWrite]
  split <;> split <;> rfl

@[simp] theorem memoryPulse_pc (s : State) : (memoryPulse s).pc = s.pc := by
  simp only [memoryPulse, honourRead, honourWrite]
  split <;> split <;> rfl

@[simp] theorem memoryPulse_ir (s : State) : (memoryPulse s).ir = s.ir := by
  simp only [memoryPulse, honourRead, honourWrite]
  split <;> split <;> rfl

@[simp] theorem memoryPulse_stage (s : State) : (memoryPulse s).stage = s.stage := by
  simp only [memoryPulse, honourRead, honourWrite]
  split <;> split <;> rfl

@[simp] theorem memoryPulse_run (s : State) : (memoryPulse s).run = s.run := by
  simp only [memoryPulse, honourRead, honourWrite]
  split <;> split <;> rfl

@[simp] theorem memoryPulse_ar (s : State) : (memoryPulse s).ar = s.ar := by
  simp only [memoryPulse, honourRead, honourWrite]
  split <;> split <;> rfl

@[simp] theorem memoryPulse_lo (s : State) : (memoryPulse s).lo = s.lo := by
  simp only [memoryPulse, honourRead, honourWrite]
  split <;> split <;> rfl

@[simp] theorem memoryPulse_hi (s : State) : (memoryPulse s).hi = s.hi := by
  simp only [memoryPulse, honourRead, honourWrite]
  split <;> split <;> rfl

@[simp] theorem memoryPulse_devices (s : State) : (memoryPulse s).devices = s.devices := by
  simp only [memoryPulse, honourRead, honourWrite]
  split <;> split <;> rfl

@[simp] theorem memoryPulse_iq (s : State) : (memoryPulse s).iq = s.iq := by
  simp only [memoryPulse, honourRead, honourWrite]
  split <;> split <;> rfl

@[simp] theorem memoryPulse_out (s : State) : (memoryPulse s).out = s.out := by
  simp only [memoryPulse, honourRead, honourWrite]
  split <;> split <;> rfl

@[simp] theorem memoryPulse_agenda (s : State) : (memoryPulse s).agenda = s.agenda := by
  simp only [memoryPulse, honourRead, honourWrite]
  split <;> split <;> rfl

/-! ### `serviceInterrupt` and `interruptCheckStage`: what they never change (R188) -/

@[simp] theorem serviceInterrupt_acc (s : State) : (serviceInterrupt s).acc = s.acc := by
  unfold serviceInterrupt
  split <;> (try split) <;> rfl

@[simp] theorem serviceInterrupt_x (s : State) : (serviceInterrupt s).x = s.x := by
  unfold serviceInterrupt
  split <;> (try split) <;> rfl

@[simp] theorem serviceInterrupt_y (s : State) : (serviceInterrupt s).y = s.y := by
  unfold serviceInterrupt
  split <;> (try split) <;> rfl

@[simp] theorem serviceInterrupt_z (s : State) : (serviceInterrupt s).z = s.z := by
  unfold serviceInterrupt
  split <;> (try split) <;> rfl

@[simp] theorem serviceInterrupt_pc (s : State) : (serviceInterrupt s).pc = s.pc := by
  unfold serviceInterrupt
  split <;> (try split) <;> rfl

@[simp] theorem serviceInterrupt_ir (s : State) : (serviceInterrupt s).ir = s.ir := by
  unfold serviceInterrupt
  split <;> (try split) <;> rfl

@[simp] theorem serviceInterrupt_stage (s : State) : (serviceInterrupt s).stage = s.stage := by
  unfold serviceInterrupt
  split <;> (try split) <;> rfl

@[simp] theorem serviceInterrupt_run (s : State) : (serviceInterrupt s).run = s.run := by
  unfold serviceInterrupt
  split <;> (try split) <;> rfl

@[simp] theorem serviceInterrupt_mem (s : State) : (serviceInterrupt s).mem = s.mem := by
  unfold serviceInterrupt
  split <;> (try split) <;> rfl

@[simp] theorem serviceInterrupt_ar (s : State) : (serviceInterrupt s).ar = s.ar := by
  unfold serviceInterrupt
  split <;> (try split) <;> rfl

@[simp] theorem serviceInterrupt_dr (s : State) : (serviceInterrupt s).dr = s.dr := by
  unfold serviceInterrupt
  split <;> (try split) <;> rfl

@[simp] theorem serviceInterrupt_pr (s : State) : (serviceInterrupt s).pr = s.pr := by
  unfold serviceInterrupt
  split <;> (try split) <;> rfl

@[simp] theorem serviceInterrupt_pw (s : State) : (serviceInterrupt s).pw = s.pw := by
  unfold serviceInterrupt
  split <;> (try split) <;> rfl

@[simp] theorem serviceInterrupt_lo (s : State) : (serviceInterrupt s).lo = s.lo := by
  unfold serviceInterrupt
  split <;> (try split) <;> rfl

@[simp] theorem serviceInterrupt_hi (s : State) : (serviceInterrupt s).hi = s.hi := by
  unfold serviceInterrupt
  split <;> (try split) <;> rfl

@[simp] theorem serviceInterrupt_agenda (s : State) : (serviceInterrupt s).agenda = s.agenda := by
  unfold serviceInterrupt
  split <;> (try split) <;> rfl

@[simp] theorem interruptCheckStage_acc (s : State) : (interruptCheckStage s).acc = s.acc := serviceInterrupt_acc s
@[simp] theorem interruptCheckStage_x (s : State) : (interruptCheckStage s).x = s.x := serviceInterrupt_x s
@[simp] theorem interruptCheckStage_y (s : State) : (interruptCheckStage s).y = s.y := serviceInterrupt_y s
@[simp] theorem interruptCheckStage_z (s : State) : (interruptCheckStage s).z = s.z := serviceInterrupt_z s
@[simp] theorem interruptCheckStage_pc (s : State) : (interruptCheckStage s).pc = s.pc := serviceInterrupt_pc s
@[simp] theorem interruptCheckStage_ir (s : State) : (interruptCheckStage s).ir = s.ir := serviceInterrupt_ir s
@[simp] theorem interruptCheckStage_stage (s : State) : (interruptCheckStage s).stage = .fetch := rfl
@[simp] theorem interruptCheckStage_run (s : State) : (interruptCheckStage s).run = s.run := serviceInterrupt_run s
@[simp] theorem interruptCheckStage_mem (s : State) : (interruptCheckStage s).mem = s.mem := serviceInterrupt_mem s
@[simp] theorem interruptCheckStage_ar (s : State) : (interruptCheckStage s).ar = s.ar := serviceInterrupt_ar s
@[simp] theorem interruptCheckStage_dr (s : State) : (interruptCheckStage s).dr = s.dr := serviceInterrupt_dr s
@[simp] theorem interruptCheckStage_pr (s : State) : (interruptCheckStage s).pr = s.pr := serviceInterrupt_pr s
@[simp] theorem interruptCheckStage_pw (s : State) : (interruptCheckStage s).pw = s.pw := serviceInterrupt_pw s
@[simp] theorem interruptCheckStage_lo (s : State) : (interruptCheckStage s).lo = s.lo := serviceInterrupt_lo s
@[simp] theorem interruptCheckStage_hi (s : State) : (interruptCheckStage s).hi = s.hi := serviceInterrupt_hi s
@[simp] theorem interruptCheckStage_devices (s : State) : (interruptCheckStage s).devices = (serviceInterrupt s).devices := rfl
@[simp] theorem interruptCheckStage_iq (s : State) : (interruptCheckStage s).iq = (serviceInterrupt s).iq := rfl
@[simp] theorem interruptCheckStage_out (s : State) : (interruptCheckStage s).out = (serviceInterrupt s).out := rfl
@[simp] theorem interruptCheckStage_agenda (s : State) : (interruptCheckStage s).agenda = s.agenda := serviceInterrupt_agenda s

end Sys2Proof.Machine
end

