-- ==== Sys2Proof/Laws/Forms.lean ====
section
/-! SUPPORT. What the shared operations do when no access is pending: the Memory's pulse, and the decode path of each
operand form. -/

namespace Sys2Proof.Machine

/-- With both flags clear the Memory's pulse does nothing (R48). -/
theorem memoryPulse_quiet (s : State) (h : Quiet s) : memoryPulse s = s := by
  obtain ⟨hw, hr⟩ := h
  simp [memoryPulse, honourWrite, honourRead, hw, hr]

/-- The same with the two flags apart: the form in which simp discharges it. -/
theorem memoryPulse_idle (s : State) (hw : s.pw = false) (hr : s.pr = false) : memoryPulse s = s :=
  memoryPulse_quiet s ⟨hw, hr⟩

/-- The pulse that commits a flagged write. -/
theorem memoryPulse_pending_write (s : State) (hw : s.pw = true) (hr : s.pr = false) :
    memoryPulse s = { s with mem := s.mem.write s.ar s.dr, pw := false } := by
  simp [memoryPulse, honourWrite, honourRead, hw, hr, setPendingWrite, writeNow]

/-- After its pulse the Memory has nothing pending. -/
theorem memoryPulse_leaves_quiet (s : State) : Quiet (memoryPulse s) := by
  cases hw : s.pw <;> cases hr : s.pr <;> simp [memoryPulse, honourWrite, honourRead, Quiet, hw, hr]

/-- No decode stage flags an access. -/
theorem quiet_fetchStage (b : Byte) (s : State) (h : Quiet s) : Quiet (fetchStage b s) := by
  simpa only [Quiet, fetchStage_pw, fetchStage_pr] using h

theorem quiet_decodeNone (s : State) (h : Quiet s) : Quiet (decodeNone s) := by
  simpa only [Quiet, decodeNone_pw, decodeNone_pr] using h

theorem quiet_decodeOne (b : Byte) (s : State) (h : Quiet s) : Quiet (decodeOne b s) := by
  simpa only [Quiet, decodeOne_pw, decodeOne_pr] using h

theorem quiet_decodeLow (b : Byte) (s : State) (h : Quiet s) : Quiet (decodeLow b s) := by
  simpa only [Quiet, decodeLow_pw, decodeLow_pr] using h

theorem quiet_decodeHigh (b : Byte) (s : State) (h : Quiet s) : Quiet (decodeHigh b s) := by
  simpa only [Quiet, decodeHigh_pw, decodeHigh_pr] using h

/-- The decode path of a 1-byte instruction. -/
theorem impliedForm_quiet (op : Byte) (s : State) (h : Quiet s) :
    impliedForm op s = { s with pc := s.pc + 1#16, ar := s.pc, dr := op, ir := op, stage := .execute1 } := by
  rw [impliedForm, memoryPulse_quiet _ (quiet_fetchStage op s h),
    memoryPulse_quiet _ (quiet_decodeNone _ (quiet_fetchStage op s h))]
  rfl

/-- The decode path of a 2-byte instruction. -/
theorem immediateForm_quiet (op operand : Byte) (s : State) (h : Quiet s) :
    immediateForm op operand s =
      { s with pc := s.pc + 2#16, ar := s.pc + 1#16, dr := operand, ir := op, stage := .execute1 } := by
  rw [immediateForm, memoryPulse_quiet _ (quiet_fetchStage op s h),
    memoryPulse_quiet _ (quiet_decodeOne operand _ (quiet_fetchStage op s h))]
  simp [decodeOne, consume, fetchStage, BitVec.add_assoc]

/-- The decode path of a 3-byte instruction. -/
theorem absoluteForm_quiet (op : Byte) (addr : Addr) (s : State) (h : Quiet s) :
    absoluteForm op addr s =
      { s with
        pc := s.pc + 3#16, ar := addr, dr := s.mem.read addr, ir := op, lo := lowByte addr, hi := highByte addr,
        stage := .execute1 } := by
  have hl := quiet_decodeLow (lowByte addr) _ (quiet_fetchStage op s h)
  rw [absoluteForm, memoryPulse_quiet _ (quiet_fetchStage op s h), memoryPulse_quiet _ hl,
    memoryPulse_quiet _ (quiet_decodeHigh (highByte addr) _ hl)]
  simp [decodeHigh, decodeLow, consume, fetchStage, assembleLittleEndian, setAddress, readNow, BitVec.add_assoc]

end Sys2Proof.Machine
end

