-- ==== Sys2Proof/Laws/Interrupts.lean ====
section
/-! SUPPORT. The laws of device buffers and of the sorted queue. -/

namespace Sys2Proof.Machine

@[simp] theorem length_setBuf (ds : List Device) (d : Nat) (b : List Item) : (setBuf ds d b).length = ds.length := by
  simp [setBuf]

/-- Setting a buffer changes no priority. -/
@[simp] theorem prioOf_setBuf (ds : List Device) (d e : Nat) (b : List Item) :
    prioOf (setBuf ds d b) e = prioOf ds e := by
  simp only [prioOf, setBuf, List.getElem?_modify]
  cases ds[e]? with
  | none => rfl
  | some dev => by_cases h : d = e <;> simp [h]

theorem bufOf_setBuf_self (ds : List Device) (d : Nat) (b : List Item) (h : d < ds.length) :
    bufOf (setBuf ds d b) d = b := by
  simp [bufOf, setBuf, List.getElem?_eq_getElem h]

theorem bufOf_setBuf_other (ds : List Device) (d e : Nat) (b : List Item) (h : d ≠ e) :
    bufOf (setBuf ds d b) e = bufOf ds e := by
  simp only [bufOf, setBuf, List.getElem?_modify]
  cases ds[e]? <;> simp [h]

theorem insertByPrio_congr (ds es : List Device) (h : ∀ e, prioOf ds e = prioOf es e) (d : Nat) (q : List Nat) :
    insertByPrio ds d q = insertByPrio es d q := by
  induction q with
  | nil => rfl
  | cons e rest ih => simp only [insertByPrio, h, ih]

/-- Sorting looks at priorities only. -/
theorem sortByPrio_congr (ds es : List Device) (h : ∀ e, prioOf ds e = prioOf es e) (q : List Nat) :
    sortByPrio ds q = sortByPrio es q := by
  induction q with
  | nil => rfl
  | cons d rest ih => simp only [sortByPrio, ih, insertByPrio_congr ds es h]

@[simp] theorem mem_insertByPrio (ds : List Device) (d e : Nat) (q : List Nat) :
    e ∈ insertByPrio ds d q ↔ e = d ∨ e ∈ q := by
  induction q with
  | nil => simp [insertByPrio]
  | cons f rest ih =>
    simp only [insertByPrio]
    split
    · simp
    · simp only [List.mem_cons, ih]
      tauto

@[simp] theorem mem_sortByPrio (ds : List Device) (e : Nat) (q : List Nat) : e ∈ sortByPrio ds q ↔ e ∈ q := by
  induction q with
  | nil => simp [sortByPrio]
  | cons d rest ih => simp [sortByPrio, ih]

theorem pairwise_insertByPrio (ds : List Device) (d : Nat) (q : List Nat)
    (h : q.Pairwise (fun a b => prioOf ds a ≤ prioOf ds b)) :
    (insertByPrio ds d q).Pairwise (fun a b => prioOf ds a ≤ prioOf ds b) := by
  induction q with
  | nil => simp [insertByPrio]
  | cons f rest ih =>
    rw [List.pairwise_cons] at h
    simp only [insertByPrio]
    split
    · rename_i hdf
      refine List.pairwise_cons.mpr ⟨fun a ha => ?_, List.pairwise_cons.mpr h⟩
      rcases List.mem_cons.mp ha with rfl | ha
      · exact hdf
      · exact le_trans hdf (h.1 a ha)
    · rename_i hdf
      refine List.pairwise_cons.mpr ⟨fun a ha => ?_, ih h.2⟩
      rcases (mem_insertByPrio ds d a rest).mp ha with rfl | ha
      · exact le_of_lt (lt_of_not_ge hdf)
      · exact h.1 a ha

/-- The sorted queue is sorted. -/
theorem pairwise_sortByPrio (ds : List Device) (q : List Nat) :
    (sortByPrio ds q).Pairwise (fun a b => prioOf ds a ≤ prioOf ds b) := by
  induction q with
  | nil => simp [sortByPrio]
  | cons d rest ih => exact pairwise_insertByPrio ds d _ ih

/-- The three cases of servicing (R187): nothing, or the head device's first item goes out and the queue is emptied. -/
theorem serviceInterrupt_cases (s : State) :
    serviceInterrupt s = s ∨
    ∃ d q item rest, s.iq = d :: q ∧ bufOf s.devices d = item :: rest ∧
      serviceInterrupt s =
        { s with out := s.out ++ [.outIrq d item], devices := setBuf s.devices d rest, iq := [] } := by
  unfold serviceInterrupt highestPriority
  cases hq : s.iq with
  | nil => exact .inl rfl
  | cons d q =>
    simp only [List.head?_cons]
    cases hb : bufOf s.devices d with
    | nil => exact .inl rfl
    | cons item rest => exact .inr ⟨d, q, item, rest, rfl, hb, rfl⟩

end Sys2Proof.Machine
end

