-- ==== Sys2Proof/Laws/Memory.lean ====
section
/-! SUPPORT. The laws of the array of cells: reading after writing, and the canonical form, which every operation keeps
and which makes equal memories equal data. -/

namespace Sys2Proof.Machine

theorem readCell_writeCell (m : Memory) (a b : Nat) (v : Byte) (low : Nat) (h : canonicalFrom low m = true) :
    readCell (writeCell m a v) b = if b = a then v else readCell m b := by
  induction m generalizing low with
  | nil => 
    by_cases hv : v = 0#8
    · simp [writeCell, readCell, hv]
    · by_cases hb : b = a
      · simp [writeCell, readCell, hv, hb]
      · simp [writeCell, readCell, hv, hb, Ne.symm hb]
  | cons c rest ih =>
    obtain ⟨k, w⟩ := c
    simp only [canonicalFrom, Bool.and_eq_true, decide_eq_true_eq] at h
    obtain ⟨⟨⟨-, -⟩, -⟩, hrest⟩ := h
    have absent : ∀ (l : Memory) (lo n : Nat), canonicalFrom lo l = true → n < lo → readCell l n = 0#8 := by
      intro l
      induction l with
      | nil => intros; rfl
      | cons c t iht =>
        obtain ⟨j, u⟩ := c
        intro lo n hl hn
        simp only [canonicalFrom, Bool.and_eq_true, decide_eq_true_eq] at hl
        have : j ≠ n := by omega
        simp only [readCell, this, if_false]
        exact iht (j + 1) n hl.2 (by omega)
    simp only [writeCell]
    split
    · rename_i hak
      have hr : readCell rest a = 0#8 := absent rest (k + 1) a hrest (by omega)
      by_cases hv : v = 0#8
      · by_cases hb : b = a
        · subst hb
          have : k ≠ b := by omega
          simp [hv, readCell, this, hr]
        · simp [hv, hb]
      · simp only [hv, if_false, readCell]
        by_cases hb : b = a
        · simp [hb]
        · simp [hb, Ne.symm hb]
    · split
      · rename_i _ hak
        subst hak
        have hr : readCell rest a = 0#8 := absent rest (a + 1) a hrest (by omega)
        by_cases hb : b = a
        · subst hb
          by_cases hv : v = 0#8 <;> simp [hv, readCell, hr]
        · by_cases hv : v = 0#8 <;> simp [hv, readCell, hb, Ne.symm hb]
      · simp only [readCell]
        rw [ih _ hrest]
        by_cases hkb : k = b
        · have : b ≠ a := by omega
          simp [hkb, this]
        · simp [hkb]

/-- A write keeps the canonical form. -/
theorem canonicalFrom_writeCell (m : Memory) (a : Nat) (v : Byte) (low : Nat) (h : canonicalFrom low m = true)
    (hlow : low ≤ a) (ha : a < 65536) : canonicalFrom low (writeCell m a v) = true := by
  induction m generalizing low with
  | nil => by_cases hv : v = 0#8 <;> simp [writeCell, canonicalFrom, hv, hlow, ha]
  | cons c rest ih =>
    obtain ⟨k, w⟩ := c
    have h' := h
    simp only [canonicalFrom, Bool.and_eq_true, decide_eq_true_eq] at h
    obtain ⟨⟨⟨hk, hk2⟩, hw⟩, hrest⟩ := h
    have weaken : ∀ (l : Memory) (p q : Nat), q ≤ p → canonicalFrom p l = true → canonicalFrom q l = true := by
      intro l p q hpq hl
      cases l with
      | nil => rfl
      | cons c t =>
        obtain ⟨j, u⟩ := c
        simp only [canonicalFrom, Bool.and_eq_true, decide_eq_true_eq] at hl ⊢
        exact ⟨⟨⟨by omega, hl.1.1.2⟩, hl.1.2⟩, hl.2⟩
    simp only [writeCell]
    split
    · by_cases hv : v = 0#8
      · simpa [hv] using h'
      · simp only [hv, if_false, canonicalFrom, Bool.and_eq_true, decide_eq_true_eq]
        exact ⟨⟨⟨hlow, ha⟩, hv⟩, ⟨⟨⟨by omega, hk2⟩, hw⟩, hrest⟩⟩
    · split
      · rename_i _ hak
        subst hak
        by_cases hv : v = 0#8
        · simpa [hv] using weaken _ _ _ (by omega) hrest
        · simp [hv, canonicalFrom, hlow, ha, hrest]
      · simp only [canonicalFrom, Bool.and_eq_true, decide_eq_true_eq]
        exact ⟨⟨⟨hk, hk2⟩, hw⟩, ih _ hrest (by omega)⟩

/-- Reading a cell after a write: the written byte at the written address, every other as before (R41). -/
theorem Memory.read_write (m : Memory) (a b : Addr) (v : Byte) (h : m.wf = true) :
    (m.write a v).read b = if b = a then v else m.read b := by
  rw [Memory.read, Memory.write, readCell_writeCell m _ _ v 0 h]
  simp only [Memory.read, BitVec.toNat_eq]

theorem Memory.read_write_same (m : Memory) (a : Addr) (v : Byte) (h : m.wf = true) : (m.write a v).read a = v := by
  simp [Memory.read_write m a a v h]

theorem Memory.read_write_other (m : Memory) (a b : Addr) (v : Byte) (h : m.wf = true) (hne : b ≠ a) :
    (m.write a v).read b = m.read b := by
  simp [Memory.read_write m a b v h, hne]

@[simp] theorem Memory.read_empty (a : Addr) : Memory.read [] a = 0 := rfl

theorem Memory.wf_empty : Memory.wf [] = true := rfl

/-- A write keeps the canonical form. -/
theorem Memory.wf_write (m : Memory) (a : Addr) (v : Byte) (h : m.wf = true) : (m.write a v).wf = true :=
  canonicalFrom_writeCell m a.toNat v 0 h (Nat.zero_le _) a.isLt

/-- In the canonical form, memories that read alike are the same list. -/
theorem canonical_ext (m n : Memory) (low : Nat) (hm : canonicalFrom low m = true) (hn : canonicalFrom low n = true)
    (h : ∀ a, a < 65536 → readCell m a = readCell n a) : m = n := by
  have below : ∀ (l : Memory) (lo a : Nat), canonicalFrom lo l = true → a < lo → readCell l a = 0#8 := by
    intro l
    induction l with
    | nil => intros; rfl
    | cons c t iht =>
      obtain ⟨j, u⟩ := c
      intro lo a hl ha
      simp only [canonicalFrom, Bool.and_eq_true, decide_eq_true_eq] at hl
      have : j ≠ a := by omega
      simp only [readCell, this, if_false]
      exact iht (j + 1) a hl.2 (by omega)
  induction m generalizing n low with
  | nil =>
    cases n with
    | nil => rfl
    | cons c t =>
      obtain ⟨k, w⟩ := c
      simp only [canonicalFrom, Bool.and_eq_true, decide_eq_true_eq] at hn
      have := h k hn.1.1.2
      simp [readCell] at this
      exact absurd this.symm hn.1.2
  | cons c t ih =>
    obtain ⟨k, w⟩ := c
    simp only [canonicalFrom, Bool.and_eq_true, decide_eq_true_eq] at hm
    cases n with
    | nil =>
      have := h k hm.1.1.2
      simp [readCell] at this
      exact absurd this hm.1.2
    | cons d u =>
      obtain ⟨j, y⟩ := d
      simp only [canonicalFrom, Bool.and_eq_true, decide_eq_true_eq] at hn
      have hkj : k = j := by
        rcases Nat.lt_trichotomy k j with hlt | heq | hgt
        · have := h k hm.1.1.2
          have hne : j ≠ k := by omega
          simp only [readCell, if_true, hne, if_false] at this
          rw [below u (j + 1) k hn.2 (by omega)] at this
          exact absurd this hm.1.2
        · exact heq
        · have := h j hn.1.1.2
          have hne : k ≠ j := by omega
          simp only [readCell, if_true, hne, if_false] at this
          rw [below t (k + 1) j hm.2 (by omega)] at this
          exact absurd this.symm hn.1.2
      subst hkj
      have hwy : w = y := by simpa [readCell] using h k hm.1.1.2
      subst hwy
      congr 1
      refine ih u (k + 1) hm.2 hn.2 (fun a ha => ?_)
      by_cases hak : k = a
      · subst hak
        rw [below t (k + 1) k hm.2 (by omega), below u (k + 1) k hn.2 (by omega)]
      · simpa [readCell, hak] using h a ha

theorem Memory.ext_read (m n : Memory) (hm : m.wf = true) (hn : n.wf = true) (h : ∀ a : Addr, m.read a = n.read a) :
    m = n := by
  refine canonical_ext m n 0 hm hn (fun a ha => ?_)
  have := h (BitVec.ofNat 16 a)
  simpa [Memory.read, Nat.mod_eq_of_lt ha] using this

/-- Writing what a cell already holds changes nothing. -/
theorem Memory.write_read_self (m : Memory) (a : Addr) (h : m.wf = true) : m.write a (m.read a) = m := by
  refine Memory.ext_read _ _ (Memory.wf_write m a _ h) h (fun b => ?_)
  rw [Memory.read_write m a b _ h]
  split
  · rename_i hb
    rw [hb]
  · rfl

theorem wf_honourWrite (s : State) (h : s.mem.wf = true) : (honourWrite s).mem.wf = true := by
  unfold honourWrite
  split
  · exact Memory.wf_write _ _ _ h
  · exact h

theorem honourRead_mem (s : State) : (honourRead s).mem = s.mem := by
  unfold honourRead
  split <;> rfl

/-- The Memory's pulse keeps the canonical form. -/
theorem wf_memoryPulse (s : State) (h : s.mem.wf = true) : (memoryPulse s).mem.wf = true := by
  rw [memoryPulse, honourRead_mem]
  exact wf_honourWrite s h

theorem wf_writeImmediate (a : Addr) (b : Byte) (s : State) (h : s.mem.wf = true) :
    (writeImmediate a b s).mem.wf = true :=
  Memory.wf_write _ _ _ h

theorem wf_flashBytes (a : Addr) (bytes : List Byte) (s : State) (h : s.mem.wf = true) :
    (flashBytes a bytes s).mem.wf = true := by
  induction bytes generalizing a s with
  | nil => exact h
  | cons b rest ih => exact ih (a + 1) _ (wf_writeImmediate a b s h)

theorem wf_placeBytes (a : Addr) (bytes : List Byte) (m : Memory) (h : m.wf = true) :
    (placeBytes a bytes m).wf = true := by
  induction bytes generalizing a m with
  | nil => exact h
  | cons b rest ih => exact ih (a + 1) _ (Memory.wf_write m a b h)

end Sys2Proof.Machine
end

