-- ==== Sys2Proof/Laws/PerInstr.lean ====
section
/-! SUPPORT. Statements made per instruction. `Operands`: an instruction is written with as many operand bytes as the
operand-count table gives its opcode (`30_encoding.md` R72, R78), but for a `SYS` without operand, the runtime-arity
override (R73). -/

namespace Sys2Proof.Laws.Operands

/-- The number of operand bytes of an instruction. -/
def Statement (i : Instr) : Prop :=
  i ≠ .sys none → (operandBytes i).length = i.opcode.operandCount

theorem txa : Statement .txa := fun _ => rfl
theorem tya : Statement .tya := fun _ => rfl
theorem tax : Statement .tax := fun _ => rfl
theorem tay : Statement .tay := fun _ => rfl
theorem nop : Statement .nop := fun _ => rfl
theorem brk : Statement .brk := fun _ => rfl
theorem ldaImm (imm : Byte) : Statement (.ldaImm imm) := fun _ => rfl
theorem ldxImm (imm : Byte) : Statement (.ldxImm imm) := fun _ => rfl
theorem ldyImm (imm : Byte) : Statement (.ldyImm imm) := fun _ => rfl
theorem ldaAbs (addr : Addr) : Statement (.ldaAbs addr) := fun _ => rfl
theorem ldxAbs (addr : Addr) : Statement (.ldxAbs addr) := fun _ => rfl
theorem ldyAbs (addr : Addr) : Statement (.ldyAbs addr) := fun _ => rfl
theorem staAbs (addr : Addr) : Statement (.staAbs addr) := fun _ => rfl
theorem bneRel (rel : Byte) : Statement (.bneRel rel) := fun _ => rfl
theorem adcAbs (addr : Addr) : Statement (.adcAbs addr) := fun _ => rfl
theorem cpxAbs (addr : Addr) : Statement (.cpxAbs addr) := fun _ => rfl
theorem incAbs (addr : Addr) : Statement (.incAbs addr) := fun _ => rfl

theorem sys (operand : Option Addr) : Statement (.sys operand) := by
  cases operand with
  | none => exact fun h => absurd rfl h
  | some a => exact fun _ => rfl

end Sys2Proof.Laws.Operands
end

