-- ==== Sys2Proof/Laws/Step.lean ====
section
/-! SUPPORT. What a tick, a move and a step are, said once: the equation of each case, which proofs cite instead of
unfolding. -/

namespace Sys2Proof.Machine

/-- A tick is the CPU's pulse, then the Memory's (R90). -/
theorem tick_eq (s : State) {opc : OpcodeTable} : tick s opc = memoryPulse (cpuPulse s opc) := rfl

/-- After a tick nothing is pending. -/
theorem tick_leaves_quiet (s : State) (opc : OpcodeTable := Opcode.defaultTable) : Quiet (tick s opc) :=
  memoryPulse_leaves_quiet _

theorem cpuPulse_fetch (s : State) {opc : OpcodeTable} (h : s.stage = .fetch) :
    cpuPulse s opc = fetchStage (byteAtPc s) s := by
  simp only [cpuPulse, h]

theorem cpuPulse_decode1 (s : State) {opc : OpcodeTable} (h : s.stage = .decode1) :
    cpuPulse s opc = decode1Stage s opc := by
  simp only [cpuPulse, h]

theorem cpuPulse_decode2 (s : State) {opc : OpcodeTable} (h : s.stage = .decode2) :
    cpuPulse s opc = decodeHigh (byteAtPc s) s := by
  simp only [cpuPulse, h]

theorem cpuPulse_execute1 (s : State) {opc : OpcodeTable} (h : s.stage = .execute1) :
    cpuPulse s opc = execute1Stage s opc := by
  simp only [cpuPulse, h]

theorem cpuPulse_execute2 (s : State) {opc : OpcodeTable} (h : s.stage = .execute2) :
    cpuPulse s opc = execute2Stage s opc := by
  simp only [cpuPulse, h]

theorem cpuPulse_writeBack (s : State) {opc : OpcodeTable} (h : s.stage = .writeBack) :
    cpuPulse s opc = writeBackStage s := by
  simp only [cpuPulse, h]

theorem cpuPulse_interruptCheck (s : State) {opc : OpcodeTable} (h : s.stage = .interruptCheck) :
    cpuPulse s opc = interruptCheckStage s := by
  simp only [cpuPulse, h]

/-- With the Clock stopped there is no step. -/
theorem step_stopped (s : State) (h : s.run = false) : step s = .fault .clockStopped := by
  simp [step, advance, h]

/-- With something on the agenda the step is that move. -/
theorem step_agenda (s : State) (e : Event) (rest : List Event) (hr : s.run = true) (h : s.agenda = e :: rest) :
    step s = perform e { s with agenda := rest } := by
  simp [step, advance, hr, h]

/-- With nothing on the agenda the step runs on. -/
theorem step_run (s : State) (hr : s.run = true) (h : s.agenda = []) : step s = runStep s := by
  simp [step, advance, hr, h]

theorem runStep_instruction (s : State) (i : Instr) (hs : s.stage = .fetch) (hi : instructionAtPc s = some i) :
    runStep s = thenEnd (exec i s) := by
  simp [runStep, hs, hi]

theorem runStep_unrecognized (s : State) (hs : s.stage = .fetch) (hi : instructionAtPc s = none) :
    runStep s = .next (endInstruction (execUnrecognized (byteAtPc s) s)) := by
  simp [runStep, hs, hi]

/-- In the middle of an instruction the step is one tick. -/
theorem runStep_midway (s : State) (hs : s.stage ≠ .fetch) : runStep s = .next (tick s) := by
  cases h : s.stage <;> simp_all [runStep]

theorem perform_tick (s : State) (h : s.run = true) : perform .tick s = .next (tick s) := by
  simp [perform, h]

theorem perform_post (s : State) (d : Nat) (item : Item) (h : s.run = true) :
    perform (.post d item) s = postEvent d item s := by
  simp [perform, h]

theorem perform_terminate (s : State) (h : s.run = true) : perform .terminate s = .next (terminateEvent s) := by
  simp [perform, h]

theorem perform_stopped (s : State) (e : Event) (h : s.run = false) : perform e s = .fault .clockStopped := by
  simp [perform, h]

/-- A post of a registered device. -/
theorem postEvent_registered (d : Nat) (item : Item) (s : State) (h : d < s.devices.length) :
    postEvent d item s = .next (acceptInterrupt d (bufferItem d item s)) := by
  simp [postEvent, h]

/-- A post that goes through: all it can be. -/
theorem postEvent_next {d : Nat} {item : Item} {s t : State} (h : postEvent d item s = .next t) :
    d < s.devices.length ∧ t = acceptInterrupt d (bufferItem d item s) := by
  by_cases hd : d < s.devices.length
  · rw [postEvent_registered d item s hd] at h
    exact ⟨hd, (Host.Outcome.next.inj h).symm⟩
  · simp [postEvent, hd] at h

/-- The three ways of `Decode1`. -/
theorem decode1Stage_cases (s : State) (opc : OpcodeTable := Opcode.defaultTable) :
    decode1Stage s opc = decodeNone s ∨ decode1Stage s opc = decodeOne (byteAtPc s) s ∨
      decode1Stage s opc = decodeLow (byteAtPc s) s := by
  unfold decode1Stage
  split <;> (try split) <;> simp

/-- The opcode in `IR`, as the dispatch of `Execute1` finds it. -/
theorem ofByte_ir (s : State) (o : Opcode) : Opcode.ofByte s.ir = some o ↔ s.ir = o.byte := by
  rw [Opcode.ofByte_eq_some, eq_comm]

/-- Every meaning answers a next state: no instruction stops the machine with a fault or a refusal. -/
theorem exec_answers (i : Instr) (s : State) : ∃ t, exec i s = .next t := by
  cases i <;> exact ⟨_, rfl⟩

end Sys2Proof.Machine
end

