-- ==== Sys2Proof/Laws/Pipeline.lean ====
section
/-! SUPPORT. The decode path of an instruction, tick by tick, is its operand form; what the string ticks, the system
call and the program load can change; a tick ignores the agenda. -/

namespace Sys2Proof.Machine

theorem ticks_zero (s : State) : ticks 0 s = s := rfl

theorem ticks_succ (k : Nat) (s : State) : ticks (k + 1) s = ticks k (tick s) := rfl

theorem ticks_add (a b : Nat) (s : State) : ticks (a + b) s = ticks a (ticks b s) := by
  induction b generalizing s with
  | zero => rfl
  | succ b ih => exact ih (tick s)

/-- The tick `Fetch`, its Memory pulse idle. -/
theorem tick_fetch_quiet (s : State) (h : Quiet s) (hs : s.stage = .fetch) : tick s = fetchStage (byteAtPc s) s := by
  rw [tick_eq, cpuPulse_fetch s hs, memoryPulse_quiet _ (quiet_fetchStage _ s h)]

/-- `Fetch` and `Decode1` where no operand is consumed: an opcode of count 0, none, or `SYS` at `X = 1` (R95). -/
theorem ticks_implied (s : State) (h : Quiet s) (hs : s.stage = .fetch)
    (hc : operandCount (byteAtPc s) = none ∨ operandCount (byteAtPc s) = some 0 ∨
      (byteAtPc s = Opcode.sys.byte ∧ s.x = 1#8)) :
    ticks 2 s = impliedForm (byteAtPc s) s := by
  show tick (tick s) = _
  have hd : decode1Stage (fetchStage (byteAtPc s) s) = decodeNone (fetchStage (byteAtPc s) s) := by
    rcases hc with hc | hc | ⟨hb, hx⟩
    · simp only [decode1Stage, fetchStage_ir, hc]
    · simp only [decode1Stage, fetchStage_ir, hc]
    · simp [decode1Stage, hb, Opcode.operandCount, hx]
  rw [tick_fetch_quiet s h hs, tick_eq, cpuPulse_decode1 _ (fetchStage_stage _ _), hd, impliedForm,
    memoryPulse_quiet (fetchStage _ s) (quiet_fetchStage _ s h)]

/-- `Fetch` and `Decode1` of a 1-operand opcode (R95). -/
theorem ticks_immediate (s : State) (h : Quiet s) (hs : s.stage = .fetch)
    (hc : operandCount (byteAtPc s) = some 1) :
    ticks 2 s = immediateForm (byteAtPc s) (s.mem.read (s.pc + 1#16)) s := by
  show tick (tick s) = _
  have hd : decode1Stage (fetchStage (byteAtPc s) s) =
      decodeOne (s.mem.read (s.pc + 1#16)) (fetchStage (byteAtPc s) s) := by
    simp only [decode1Stage, fetchStage_ir, hc]
    simp [byteAtPc]
  rw [tick_fetch_quiet s h hs, tick_eq, cpuPulse_decode1 _ (fetchStage_stage _ _), hd, immediateForm,
    memoryPulse_quiet (fetchStage _ s) (quiet_fetchStage _ s h)]

/-- `Fetch`, `Decode1` and `Decode2` of a 2-operand opcode, but for `SYS` at `X = 1` (R95, R97). -/
theorem ticks_absolute (s : State) (h : Quiet s) (hs : s.stage = .fetch)
    (hc : operandCount (byteAtPc s) = some 2) (hx : ¬(byteAtPc s = Opcode.sys.byte ∧ s.x = 1#8)) :
    ticks 3 s = absoluteForm (byteAtPc s) (assemble (s.mem.read (s.pc + 2#16)) (s.mem.read (s.pc + 1#16))) s := by
  show tick (tick (tick s)) = _
  have hd : decode1Stage (fetchStage (byteAtPc s) s) =
      decodeLow (s.mem.read (s.pc + 1#16)) (fetchStage (byteAtPc s) s) := by
    simp only [decode1Stage, fetchStage_ir, fetchStage_x, hc, hx, if_false]
    simp [byteAtPc]
  have hq := quiet_fetchStage (byteAtPc s) s h
  have hl := quiet_decodeLow (s.mem.read (s.pc + 1#16)) _ hq
  have hb : byteAtPc (decodeLow (s.mem.read (s.pc + 1#16)) (fetchStage (byteAtPc s) s)) = s.mem.read (s.pc + 2#16) := by
    simp [byteAtPc, BitVec.add_assoc]
  rw [tick_fetch_quiet s h hs, tick_eq (fetchStage _ s), cpuPulse_decode1 _ (fetchStage_stage _ _), hd,
    memoryPulse_quiet _ hl, tick_eq, cpuPulse_decode2 _ (decodeLow_stage _ _), hb, absoluteForm]
  simp only [highByte_assemble, lowByte_assemble]
  rw [memoryPulse_quiet (fetchStage _ s) hq, memoryPulse_quiet _ hl]

/-- A string tick changes `AR`, `DR`, `OUT` and `STAGE` only (R163). -/
theorem streamTick_frame (s : State) :
    streamTick s = { s with
      ar := (streamTick s).ar, dr := s.mem.read s.ar, out := (streamTick s).out, stage := (streamTick s).stage } := by
  unfold streamTick streamByte
  split <;> rfl

/-- `Execute1` of `SYS` changes `AR`, `DR`, `OUT` and `STAGE` only (R160 to R165). -/
theorem sysExecute1_frame (s : State) :
    sysExecute1 s = { s with
      ar := (sysExecute1 s).ar, dr := (sysExecute1 s).dr, out := (sysExecute1 s).out,
      stage := (sysExecute1 s).stage } := by
  unfold sysExecute1
  split
  · rfl
  · split
    · rw [streamTick_frame]
    · rfl

/-- A program load changes `MEM`, `AR` and `DR` only (R204). -/
theorem flashBytes_frame (a : Addr) (bytes : List Byte) (s : State) :
    flashBytes a bytes s = { s with
      mem := (flashBytes a bytes s).mem, ar := (flashBytes a bytes s).ar, dr := (flashBytes a bytes s).dr } := by
  induction bytes generalizing a s with
  | nil => rfl
  | cons b rest ih =>
    rw [flashBytes, ih]
    rfl

/-- The operand counts there are. -/
theorem operandCount_le_two {b : Byte} {n : Nat} (h : operandCount b = some n) : n = 0 ∨ n = 1 ∨ n = 2 := by
  unfold operandCount at h
  cases ho : Opcode.ofByte b with
  | none => simp [ho] at h
  | some o =>
    simp only [ho, Option.map_some, Option.some.injEq] at h
    subst h
    cases o <;> decide

theorem memoryPulse_with_agenda (s : State) (a : List Event) :
    memoryPulse { s with agenda := a } = { memoryPulse s with agenda := a } := by
  cases hw : s.pw <;> cases hr : s.pr <;>
    simp [memoryPulse, honourWrite, honourRead, hw, hr, setPendingRead, setPendingWrite, readNow, writeNow]

end Sys2Proof.Machine
end

