-- ==== Sys2Proof/Tests/Slice0.lean ====
section
/-! SUPPORT. The model's own tests. The expected results are the worked examples of the source and the vectors of
`95_test_vectors.md` (named M1, L5, … as there); a theorem named `witness_…` shows states and operands that meet the
hypotheses of one statement of Certificates/Slice0/Obligations.lean, clause by clause. -/

namespace Sys2Proof.Tests

open Sys2Proof.Machine

/-! ### Helpers -/

/-- The answer is a next state that passes the check. -/
def passes (o : Host.Outcome State Fault Refusal) (check : State → Bool) : Bool :=
  match o with
  | .next t => check t
  | .fault _ => false
  | .refused _ => false

/-- The reset state with bytes stored from `pc` on and other cells listed, about to fetch at `pc`. -/
def machine (pc : Addr) (bytes : List Byte) (cells : List (Addr × Byte)) : State :=
  { State.reset with pc := pc, mem := cells.foldl (fun m c => m.write c.1 c.2) (placeBytes pc bytes []) }

/-- The reset state with a stage and an instruction register. -/
def atStage (stage : Stage) (ir : Byte) : State :=
  { State.reset with stage := stage, ir := ir }

/-- A device of a priority, its buffer given. -/
def device (prio : Int) (buf : List Item) : Device :=
  { irq := 1, prio := prio, name := "test", buf := buf }

/-- Another table of distinct opcode bytes: every byte of the default table complemented. -/
def complementTable : OpcodeTable :=
  fun o => ~~~ o.byte

/-- `k` steps. -/
def steps (k : Nat) (s : State) : Host.Outcome State Fault Refusal :=
  Host.Core.run Sys2Proof.core k s

/-! ### Well-formedness: the ill-formed are refused -/

theorem test_sys_without_operand_needs_x_1 : Instr.wellFormed 2#8 (.sys none) = false := by decide
theorem test_sys_with_operand_is_not_for_x_1 : Instr.wellFormed 1#8 (.sys (some 0x0010#16)) = false := by decide

/-! ### Decoding: every row of the opcode table, its word written out from `30_encoding.md` R76 -/

theorem test_decode_implied :
    decodeTableWord 8 0x8A = some .txa ∧ decodeTableWord 8 0x98 = some .tya ∧ decodeTableWord 8 0xAA = some .tax ∧
    decodeTableWord 8 0xA8 = some .tay ∧ decodeTableWord 8 0xEA = some .nop ∧ decodeTableWord 8 0x00 = some .brk := by
  decide

theorem test_decode_immediate_and_relative :
    decodeTableWord 16 0x81A9 = some (.ldaImm 0x81#8) ∧ decodeTableWord 16 0x0AA2 = some (.ldxImm 0x0A#8) ∧
    decodeTableWord 16 0x80A0 = some (.ldyImm 0x80#8) ∧ decodeTableWord 16 0xFED0 = some (.bneRel 0xFE#8) := by
  decide

theorem test_decode_absolute :
    decodeTableWord 24 0x1234AD = some (.ldaAbs 0x1234#16) ∧ decodeTableWord 24 0x4000AE = some (.ldxAbs 0x4000#16) ∧
    decodeTableWord 24 0xFF00AC = some (.ldyAbs 0xFF00#16) ∧ decodeTableWord 24 0x40008D = some (.staAbs 0x4000#16) ∧
    decodeTableWord 24 0x00206D = some (.adcAbs 0x0020#16) ∧ decodeTableWord 24 0x0020EC = some (.cpxAbs 0x0020#16) ∧
    decodeTableWord 24 0x0020EE = some (.incAbs 0x0020#16) ∧ decodeTableWord 24 0x0010FF = some (.sys (some 0x0010#16)) := by
  decide

/-- At `X = 1` the two bytes after `FF` are not consumed (Y1). -/
theorem test_decode_sys_at_x_1 : decode 1#8 [0xFF#8, 0x10#8, 0x00#8] = .ok (.sys none, [0x10#8, 0x00#8]) := by decide

/-- Bits above the row's width are 0, so a short row's operands are 0. -/
theorem test_decode_short_word : decodeTableWord 8 0x1234AD = some (.ldaAbs 0x0000#16) := by decide

/-- N1, N2: bytes of the family's other processors are no instructions here. -/
theorem test_decode_rejects_by_name :
    decode 0#8 [0x4C#8, 0x00#8, 0x10#8] = .error (.unrecognized 0x4C#8) ∧ decodeTableWord 8 0x02 = none ∧
    decode 0#8 [0xAD#8, 0x34#8] = .error .truncated := by
  decide

/-- Under another table the same instruction is spelled with its byte (R77). -/
theorem test_decode_other_table :
    decode 0#8 [0x56#8, 0x81#8] complementTable = .ok (.ldaImm 0x81#8, []) ∧
    decode 0#8 [0xA9#8, 0x81#8] complementTable = .error (.unrecognized 0xA9#8) := by decide

/-- The placed word is what the very next step runs. -/
theorem test_with_fetch_word :
    passes (step (State.reset.withFetchWord 16 0x42A9)) (fun t => t.acc == 0x42#8 && t.pc == 2#16) = true := by decide

/-! ### One step of each instruction -/

/-- M1. -/
theorem test_txa :
    passes (step { machine 0x0200#16 [0x8A#8] [] with x := 7#8, acc := 1#8 })
      (fun t => t.acc == 7#8 && t.x == 7#8 && t.pc == 0x0201#16 && t.ir == 0x8A#8 && t.ar == 0x0200#16 &&
        t.dr == 0x8A#8) = true := by decide

/-- M2: moving zero does not set `Z`. -/
theorem test_txa_zero :
    passes (step { machine 0x0200#16 [0x8A#8] [] with acc := 0x55#8 }) (fun t => t.acc == 0#8 && t.z == false) = true := by
  decide

/-- M3. -/
theorem test_tya :
    passes (step { machine 0x0200#16 [0x98#8] [] with y := 0xFF#8, x := 3#8 })
      (fun t => t.acc == 0xFF#8 && t.y == 0xFF#8 && t.pc == 0x0201#16) = true := by decide

/-- M4. -/
theorem test_tax :
    passes (step { machine 0x0200#16 [0xAA#8] [] with acc := 3#8, y := 9#8 })
      (fun t => t.x == 3#8 && t.acc == 3#8 && t.y == 9#8) = true := by decide

/-- M5. -/
theorem test_tay :
    passes (step { machine 0x0200#16 [0xA8#8] [] with acc := 0x37#8, x := 9#8 })
      (fun t => t.y == 0x37#8 && t.acc == 0x37#8 && t.x == 9#8) = true := by decide

/-- M8: `PC` wraps. -/
theorem test_nop_at_the_top :
    passes (step (machine 0xFFFF#16 [0xEA#8] [])) (fun t => t.pc == 0#16 && t.ar == 0xFFFF#16 && t.dr == 0xEA#8) = true := by
  decide

/-- M7. -/
theorem test_brk :
    passes (step { machine 0x001F#16 [0x00#8] [] with acc := 0x11#8 })
      (fun t => t.run == false && t.pc == 0x0020#16 && t.ar == 0x001F#16 && t.acc == 0x11#8 &&
        decide (t.stage = .interruptCheck)) = true := by decide

/-- L1: loading zero does not set `Z`. -/
theorem test_lda_imm :
    passes (step { machine 0x0300#16 [0xA9#8, 0x00#8] [] with acc := 0x55#8 })
      (fun t => t.acc == 0#8 && t.z == false && t.pc == 0x0302#16 && t.ar == 0x0301#16 && t.dr == 0#8) = true := by decide

/-- L9: the operand across the top of memory. -/
theorem test_lda_imm_wraps :
    passes (step (machine 0xFFFF#16 [0xA9#8, 0x5A#8] [])) (fun t => t.acc == 0x5A#8 && t.pc == 1#16 && t.ar == 0#16) = true := by
  decide

/-- L3. -/
theorem test_ldx_imm :
    passes (step (machine 0x0300#16 [0xA2#8, 0x01#8] [])) (fun t => t.x == 1#8 && t.acc == 0#8 && t.y == 0#8) = true := by decide

/-- L4. -/
theorem test_ldy_imm :
    passes (step (machine 0x0300#16 [0xA0#8, 0x80#8] [])) (fun t => t.y == 0x80#8 && t.acc == 0#8 && t.x == 0#8) = true := by decide

/-- L5. -/
theorem test_lda_abs :
    passes (step (machine 0x0300#16 [0xAD#8, 0x34#8, 0x12#8] [(0x1234#16, 0x42#8)]))
      (fun t => t.acc == 0x42#8 && t.pc == 0x0303#16 && t.ar == 0x1234#16 && t.dr == 0x42#8 && t.lo == 0x34#8 &&
        t.hi == 0x12#8) = true := by decide

/-- L8: the instruction straddles the top of memory. -/
theorem test_lda_abs_straddles :
    passes (step (machine 0xFFFE#16 [0xAD#8, 0x05#8, 0x12#8] [(0x1205#16, 0x77#8)]))
      (fun t => t.acc == 0x77#8 && t.pc == 1#16 && t.lo == 5#8 && t.hi == 0x12#8) = true := by decide

/-- L6. -/
theorem test_ldx_abs :
    passes (step (machine 0x0300#16 [0xAE#8, 0x00#8, 0x40#8] [(0x4000#16, 0x42#8)]))
      (fun t => t.x == 0x42#8 && t.acc == 0#8 && t.lo == 0#8 && t.hi == 0x40#8) = true := by decide

/-- L7. -/
theorem test_ldy_abs :
    passes (step (machine 0x0300#16 [0xAC#8, 0xFF#8, 0xFF#8] [(0xFFFF#16, 0x99#8)]))
      (fun t => t.y == 0x99#8 && t.ar == 0xFFFF#16) = true := by decide

/-- L10. -/
theorem test_sta :
    passes (step { machine 0x0300#16 [0x8D#8, 0x00#8, 0x40#8] [(0x4000#16, 0x11#8)] with acc := 0x42#8 })
      (fun t => t.mem.read 0x4000#16 == 0x42#8 && t.dr == 0x42#8 && t.pw == false && t.pc == 0x0303#16) = true := by decide

/-- L11: a store into its own operand byte. -/
theorem test_sta_own_operand :
    passes (step { machine 0x0300#16 [0x8D#8, 0x01#8, 0x03#8] [] with acc := 0xEA#8 })
      (fun t => t.mem.read 0x0301#16 == 0xEA#8 && t.mem.read 0x0302#16 == 3#8 && t.ar == 0x0301#16 && t.lo == 1#8) = true := by
  decide

/-- B6: not a forward branch. -/
theorem test_bne_7F :
    passes (step (machine 0x0200#16 [0xD0#8, 0x7F#8] [])) (fun t => t.pc == 0x0181#16 && t.ar == 0x0201#16) = true := by decide

/-- B2: not taken. -/
theorem test_bne_not_taken :
    passes (step { machine 0x0008#16 [0xD0#8, 0xFE#8] [] with z := true }) (fun t => t.pc == 0x000A#16 && t.z == true) = true := by
  decide

/-- A2: no carry kept, `Z` not set. -/
theorem test_adc_wraps :
    passes (step { machine 0x0300#16 [0x6D#8, 0x20#8, 0x00#8] [(0x0020#16, 0x01#8)] with acc := 0xFF#8 })
      (fun t => t.acc == 0#8 && t.z == false && t.mem.read 0x0020#16 == 1#8) = true := by decide

/-- A1. -/
theorem test_adc :
    passes (step { machine 0x0300#16 [0x6D#8, 0x20#8, 0x00#8] [(0x0020#16, 0x22#8)] with acc := 0x10#8 })
      (fun t => t.acc == 0x32#8 && t.dr == 0x22#8) = true := by decide

/-- C5: the comparison is with `X`, not `ACC`. -/
theorem test_cpx_unequal :
    passes (step { machine 0x0300#16 [0xEC#8, 0x20#8, 0x00#8] [(0x0020#16, 0x09#8)] with x := 5#8, acc := 9#8 })
      (fun t => t.z == false && t.x == 5#8) = true := by decide

/-- C4. -/
theorem test_cpx_equal : passes (step (machine 0x0300#16 [0xEC#8, 0x20#8, 0x00#8] [])) (fun t => t.z) = true := by decide

/-- I1. -/
theorem test_inc :
    passes (step { machine 0x0300#16 [0xEE#8, 0x20#8, 0x00#8] [(0x0020#16, 0x05#8)] with acc := 0x99#8 })
      (fun t => t.mem.read 0x0020#16 == 6#8 && t.acc == 6#8 && t.dr == 6#8 && t.pc == 0x0303#16 && t.z == false) = true := by
  decide

/-- I2: wraps. -/
theorem test_inc_wraps :
    passes (step (machine 0x0300#16 [0xEE#8, 0x20#8, 0x00#8] [(0x0020#16, 0xFF#8)]))
      (fun t => t.mem.read 0x0020#16 == 0#8 && t.acc == 0#8 && t.z == false && t.mem.wf) = true := by decide

/-- Y1. -/
theorem test_sys_prints_y :
    passes (step { machine 0x0017#16 [0xFF#8, 0x10#8, 0x00#8] [] with x := 1#8, y := 0x37#8 })
      (fun t => t.out == [.outInt 55] && t.pc == 0x0018#16 && t.lo == 0#8) = true := by decide

/-- Y4: the first string tick, then the machine goes on from there. -/
theorem test_sys_streams :
    passes (step { machine 0x0300#16 [0xFF#8, 0x10#8, 0x00#8] [(0x0010#16, 0x48#8), (0x0011#16, 0x49#8)] with x := 3#8 })
      (fun t => t.out == [.outChar 0x48#8] && t.ar == 0x0011#16 && decide (t.stage = .execute1)) = true := by decide

/-- N1. -/
theorem test_unrecognized :
    passes (step { machine 0x0011#16 [0x02#8] [] with acc := 1#8, x := 2#8, y := 3#8 })
      (fun t => t.out == [.diag .decodeFault 2#8] && t.pc == 0x0012#16 && t.acc == 1#8 && t.run) = true := by decide

/-- Under another table, `Execute1` of the complement of `BRK`'s byte halts, and 0x00 is the diagnostic (R77, R79). -/
theorem test_tick_other_table :
    (tick (atStage .execute1 0xFF#8) complementTable).run = false ∧
    (tick (atStage .execute1 0x01#8) complementTable).out = [.diag .decodeFault 0x01#8] := by decide

/-! ### The Memory, the MMU and the interrupt side -/

/-- The default load address is 0x0000 (`00_scope.md` R7). -/
theorem test_load_program :
    passes (loadProgram [0xA9#8, 0x07#8] State.reset)
      (fun t => t.mem.read 0#16 == 0xA9#8 && t.mem.read 1#16 == 7#8 && t.pc == 0#16) = true := by decide

/-- U3: write first, then the read returns the byte just written. -/
theorem test_pulse_write_then_read :
    (fun t : State => t.mem.read 0x0123#16 == 0xAB#8 && t.dr == 0xAB#8 && t.pw == false && t.pr == false)
      (memoryPulse { machine 0x0123#16 [0x11#8] [] with ar := 0x0123#16, dr := 0xAB#8, pw := true, pr := true }) = true := by
  decide

/-- U4. -/
theorem test_pulse_read :
    (memoryPulse { machine 0x0123#16 [0x11#8] [] with ar := 0x0123#16, dr := 0xAB#8, pr := true }).dr = 0x11#8 := by decide

/-- Q1, the source's example: priorities 5, 1, 3 queue as 1, 3, 5. -/
theorem test_queue_order :
    sortByPrio [device 5 [], device 1 [], device 3 []] [0, 1, 2] = [1, 2, 0] := by decide

/-- Q3: equal priorities keep their insertion order. -/
theorem test_queue_is_stable :
    passes (performAll [.post 1 1#8, .post 0 2#8, .post 2 3#8, .post 1 4#8]
        { State.reset with devices := [device 2 [], device 2 [], device 1 []] })
      (fun t => t.iq == [2, 1, 0, 1] && bufOf t.devices 1 == [1#8, 4#8]) = true := by decide

/-- Q4: one item out, the whole queue emptied. -/
theorem test_interrupt_check :
    (fun t : State => t.out == [.outIrq 2 3#8] && t.iq == [] && bufOf t.devices 2 == [] &&
        bufOf t.devices 1 == [1#8, 4#8] && decide (t.stage = .fetch))
      (tick { atStage .interruptCheck 0xEA#8 with
        devices := [device 2 [2#8], device 2 [1#8, 4#8], device 1 [3#8]], iq := [2, 1, 0, 1] }) = true := by decide

/-- A moved key: Ctrl-C stops the Clock, and no step follows. -/
theorem test_terminate : step (terminateEvent State.reset) = .fault .clockStopped := by rfl

/-! ### Witnesses: the hypotheses of the statements can be met -/

theorem witness_DecodeOfEncodeIsTheInstruction :
    Opcode.defaultTable.wf = true ∧ complementTable.wf = true ∧
    Instr.wellFormed 1#8 (.sys none) = true ∧ Instr.wellFormed 0#8 (.sys (some 0xFFFF#16)) = true ∧
    Instr.wellFormed 255#8 (.ldaImm 0x81#8) = true := by decide

theorem witness_DecodedBytesAreTheEncoding :
    decode 3#8 [0xFF#8, 0x10#8, 0x20#8, 0x77#8] = .ok (.sys (some 0x2010#16), [0x77#8]) ∧
    decode 1#8 [0xFF#8] = .ok (.sys none, []) ∧
    decode 0#8 [0x56#8, 0x81#8] complementTable = .ok (.ldaImm 0x81#8, []) := by decide

theorem witness_canonical_memory_with_both_flags :
    (fun s : State => s.mem.wf && s.pw && s.pr && s.mem != [])
      { machine 0x0123#16 [0x11#8] [] with pw := true, pr := true } = true := by decide

theorem witness_FlashStoresTheImage :
    (0xFFFE#16 : Addr).toNat + [1#8, 2#8].length ≤ 65536 ∧ 65536 < (0xFFFE#16 : Addr).toNat + [1#8, 2#8, 3#8].length ∧
    State.reset.mem.wf = true := by decide

/-- For every statement with `Quiet` and canonical memory alone. -/
theorem witness_quiet_and_canonical : Quiet State.reset ∧ State.reset.mem.wf = true := by decide

theorem witness_SysPrintsYAsAnInteger : Quiet { State.reset with x := 1#8 } := by decide

theorem witness_SysOtherModesDoNothing :
    (0#8 : Byte) ≠ 1#8 ∧ (0#8 : Byte) ≠ 3#8 ∧ (2#8 : Byte) ≠ 1#8 ∧ (2#8 : Byte) ≠ 3#8 ∧ (4#8 : Byte) ≠ 1#8 ∧
    (4#8 : Byte) ≠ 3#8 ∧ Quiet { State.reset with x := 2#8 } := by decide

/-- An empty string and one of a byte, the operand written and not written. -/
theorem witness_SysStartsTheString :
    State.reset.mem.read 0x0010#16 = 0#8 ∧
    (machine 0x0300#16 [0xFF#8, 0x10#8, 0x00#8] [(0x0010#16, 0x48#8)]).mem.read 0x0010#16 ≠ 0#8 ∧
    (0x0010#16 : Addr) = (none : Option Addr).getD (assemble
      ((machine 0x0300#16 [0xFF#8, 0x10#8, 0x00#8] []).mem.read 0x0302#16)
      ((machine 0x0300#16 [0xFF#8, 0x10#8, 0x00#8] []).mem.read 0x0301#16)) := by decide

/-- Y4 and Y5: a string of two bytes and an empty one. -/
theorem witness_SysStreamsTheWholeString :
    (fun s : State => decide (Quiet s) && decide (s.stage = .fetch) && s.x == 3#8 &&
        decide (instructionAtPc s = some (.sys (some 0x0010#16))) &&
        s.mem.read 0x0010#16 != 0#8 && s.mem.read 0x0011#16 != 0#8 && s.mem.read 0x0012#16 == 0#8)
      { machine 0x0300#16 [0xFF#8, 0x10#8, 0x00#8] [(0x0010#16, 0x48#8), (0x0011#16, 0x49#8)] with x := 3#8 } = true ∧
    State.reset.mem.read 0x0010#16 = 0#8 := by decide

theorem witness_UnrecognizedOpcodeIsLoggedAndSkipped :
    (∀ o : Opcode, o.byte ≠ (machine 0x0011#16 [0x02#8] []).mem.read 0x0011#16) ∧
    Quiet (machine 0x0011#16 [0x02#8] []) ∧ (machine 0x0011#16 [0x02#8] []).run = true ∧
    (machine 0x0011#16 [0x02#8] []).agenda = [] ∧ (machine 0x0011#16 [0x02#8] []).stage = .fetch := by
  refine ⟨fun o => ?_, ?_⟩
  · cases o <;> decide
  · decide

theorem witness_BranchDisplacementLaw : (0x80#8 : Byte) ≤ 0x80#8 ∧ (0x80#8 : Byte) ≤ 0xFF#8 := by decide

/-- One state for each clause of `Decode1`; the other stages take any. -/
theorem witness_FetchAndDecodeStages :
    Quiet (atStage .decode1 0x02#8) ∧ operandCount (atStage .decode1 0x02#8).ir = none ∧
    operandCount (atStage .decode1 0x8A#8).ir = some 0 ∧ operandCount (atStage .decode1 0xA9#8).ir = some 1 ∧
    operandCount (atStage .decode1 0xFF#8).ir = some 2 ∧ (atStage .decode1 0xFF#8).ir = Opcode.sys.byte ∧
    ¬((atStage .decode1 0xFF#8).ir = Opcode.sys.byte ∧ (atStage .decode1 0xFF#8).x = 1#8) ∧
    Quiet (atStage .fetch 0#8) ∧ Quiet (atStage .decode2 0xAD#8) := by decide

theorem witness_IncrementStages :
    Quiet (atStage .execute2 0xEE#8) ∧ (atStage .execute2 0xEE#8).ir = Opcode.incAbs.byte ∧
    Quiet (atStage .writeBack 0xEE#8) := by decide

/-- The clauses of `Decode1`: an absent opcode, one with no operand, one with one, `SYS` at `X = 1`, `SYS` at `X = 2` and
another opcode with two operands. -/
theorem witness_StageTransitionTable_Decode1 :
    operandCount (atStage .decode1 0x02#8).ir = none ∧ operandCount (atStage .decode1 0x00#8).ir = some 0 ∧
    operandCount (atStage .decode1 0xA9#8).ir = some 1 ∧ operandCount (atStage .decode1 0xFF#8).ir = some 2 ∧
    ({ atStage .decode1 0xFF#8 with x := 1#8 } : State).ir = Opcode.sys.byte ∧
    ({ atStage .decode1 0xFF#8 with x := 1#8 } : State).x = 1#8 ∧
    ¬(({ atStage .decode1 0xFF#8 with x := 2#8 } : State).ir = Opcode.sys.byte ∧
      ({ atStage .decode1 0xFF#8 with x := 2#8 } : State).x = 1#8) ∧
    operandCount (atStage .decode1 0xAD#8).ir = some 2 ∧
    ¬(({ atStage .decode1 0xAD#8 with x := 1#8 } : State).ir = Opcode.sys.byte ∧
      ({ atStage .decode1 0xAD#8 with x := 1#8 } : State).x = 1#8) := by decide

/-- The clauses of `Execute1` and `Execute2`: an `INC`, a string that goes on, one that has ended, a `BRK`. -/
theorem witness_StageTransitionTable :
    (atStage .execute1 0xEE#8).ir = Opcode.incAbs.byte ∧ (atStage .execute1 0xFF#8).ir = Opcode.sys.byte ∧
    (machine 0x0010#16 [0x48#8] []).mem.read 0x0010#16 ≠ 0#8 ∧ State.reset.mem.read 0x0010#16 = 0#8 ∧
    (atStage .execute1 0x00#8).ir ≠ Opcode.incAbs.byte ∧ (atStage .execute1 0x00#8).ir ≠ Opcode.sys.byte ∧
    StageConsistent (atStage .execute2 0xEE#8) := by decide

/-- The three cases of the queue and the head's buffer (Q5, Q6, Q4). -/
theorem witness_InterruptCheckEmitsOneItem :
    (atStage .interruptCheck 0xEA#8).iq = [] ∧ bufOf [device 0 [], device 1 [9#8]] 0 = [] ∧
    bufOf [device 0 [3#8, 4#8]] 0 = 3#8 :: [4#8] ∧ Quiet (atStage .interruptCheck 0xEA#8) := by decide

theorem witness_RaisedConditionsAndTheirEffects :
    Quiet (atStage .execute1 0x02#8) ∧ raisedCondition (atStage .execute1 0x02#8) = some .decodeFault ∧
    raisedCondition { atStage .execute1 0xFF#8 with x := 2#8 } = some .unimplementedMode ∧
    raisedCondition (atStage .execute1 0x00#8) = some .halt ∧ raisedCondition (atStage .execute1 0xFF#8) = none := by decide

/-- The move and the program load go through, and a tick of another instruction than `BNE`. -/
theorem witness_ZeroFlagIsAOneWayLatch :
    passes (postEvent 0 7#8 State.reset) (fun _ => true) = true ∧
    passes (flash 0#16 [1#8] State.reset) (fun _ => true) = true ∧
    ¬((atStage .execute1 0xEC#8).stage = .execute1 ∧ (atStage .execute1 0xEC#8).ir = Opcode.bneRel.byte) := by decide

theorem witness_GeneralRegistersChangeOnlyByTheirWriters :
    (tick { atStage .execute1 0x8A#8 with x := 7#8 }).acc ≠ 0#8 ∧ (tick (atStage .execute2 0xEE#8)).acc ≠ 0#8 ∧
    (tick { atStage .execute1 0xAA#8 with acc := 7#8 }).x ≠ 0#8 ∧
    (tick { atStage .execute1 0xA8#8 with acc := 7#8 }).y ≠ 0#8 := by decide

theorem witness_MemoryChangesOnlyByAFlaggedWrite :
    Quiet (atStage .execute1 0x8D#8) ∧ (atStage .execute1 0x8D#8).ir = Opcode.staAbs.byte ∧
    (atStage .writeBack 0xEE#8).mem.wf = true := by decide

/-- As in the program P6, a store of `NOP` over the byte that follows it; and an `INC` of the byte that follows it, which
makes a `NOP` of it. -/
theorem witness_NextFetchSeesTheStore :
    (fun s : State => decide (Quiet s) && s.mem.wf && s.run && decide (s.agenda = []) && decide (s.stage = .fetch) &&
        decide (instructionAtPc s = some (.staAbs (s.pc + 3#16))) && passes (step s) (fun t => (tick t).ir == 0xEA#8))
      { machine 0x0002#16 [0x8D#8, 0x05#8, 0x00#8, 0x00#8] [] with acc := 0xEA#8 } = true ∧
    (fun s : State => decide (Quiet s) && s.mem.wf && s.run && decide (s.agenda = []) && decide (s.stage = .fetch) &&
        decide (instructionAtPc s = some (.incAbs (s.pc + 3#16))) && passes (step s) (fun t => (tick t).ir == 0xEA#8))
      (machine 0x0002#16 [0xEE#8, 0x05#8, 0x00#8, 0xE9#8] []) = true := by decide

theorem witness_AddressBytesAreReadOnlyInDecode2 : (atStage .execute1 0xAD#8).stage ≠ .decode2 := by decide

theorem witness_OutputIsAppendOnly : passes (postEvent 0 7#8 State.reset) (fun t => t.out == []) = true := by decide

theorem witness_HighestPriorityIsTheHead :
    QueueSorted { State.reset with devices := [device 2 [], device 2 [], device 1 []], iq := [2, 1, 0, 1] } ∧
    highestPriority { State.reset with iq := [2, 1, 0, 1] } = some 2 := by decide

theorem witness_PostBuffersAndQueues : State.reset.run = true ∧ 0 < State.reset.devices.length := by decide

theorem witness_TerminateStopsAtOnce : State.reset.run = true ∧ (0x02#8 : Byte) ≠ 0x03#8 := by decide

/-- A tick that is not the halting one, in `Execute1` too, and the halting tick. -/
theorem witness_PostCommutesWithTicks :
    State.reset.run = true ∧ 0 < State.reset.devices.length ∧ State.reset.stage ≠ .interruptCheck ∧
    ¬((atStage .execute1 0xEA#8).stage = .execute1 ∧ (atStage .execute1 0xEA#8).ir = Opcode.brk.byte) ∧
    (atStage .execute1 0x00#8).stage = .execute1 ∧ (atStage .execute1 0x00#8).ir = Opcode.brk.byte ∧
    (atStage .execute1 0x00#8).run = true ∧ 0 < (atStage .execute1 0x00#8).devices.length := by decide

theorem witness_PostsAreInvisibleToTheProgram :
    passes (performAll [.tick, .post 0 0x61#8, .tick, .terminate] State.reset)
      (fun t => t.iq == [0] && t.run == false) = true := by decide

theorem witness_HaltIsPermanent : (terminateEvent State.reset).run = false := by decide

theorem witness_StepRunsTheDecodedInstruction :
    (fun s : State => s.run && decide (s.agenda = []) && decide (s.stage = .fetch) &&
        decide (decode s.x (fetchedBytes s) = .ok (.ldaAbs 0x1234#16, [])))
      (machine 0x0300#16 [0xAD#8, 0x34#8, 0x12#8] []) = true := by decide

/-- At `Fetch` and in the middle of an instruction. -/
theorem witness_StepIsTheTicksOfTheInstruction :
    State.reset.run = true ∧ State.reset.agenda = [] ∧ Quiet State.reset ∧ State.reset.stage = .fetch ∧
    (atStage .execute1 0xFF#8).stage ≠ .fetch ∧ Quiet (atStage .execute1 0xFF#8) := by decide

/-- The three ends of a step: at `Fetch`, stopped, and in a string. -/
theorem witness_StepEndsAtAnInstructionBoundary :
    passes (step (machine 0#16 [0xEA#8] [])) (fun t => decide (t.stage = .fetch)) = true ∧
    passes (step State.reset) (fun t => t.run == false) = true ∧
    passes (step { machine 0#16 [0xFF#8, 0x00#8, 0x00#8] [] with x := 3#8 })
      (fun t => decide (t.stage = .execute1)) = true := by decide

theorem witness_NoInstructionStopsTheMachine :
    State.reset.agenda = [] ∧ step { State.reset with run := false } = .fault .clockStopped ∧
    step { State.reset with agenda := [.post 1 7#8] } = .refused (.unknownDevice 1) ∧
    State.reset.devices.length ≤ 1 := by
  exact ⟨rfl, rfl, rfl, Nat.le_refl 1⟩

/-- Another table: `Execute1` of its `TXA`, and a byte in no row of it in `Decode1` and in `Execute1`. -/
theorem witness_OpcodeTableOnlySpellsInstructions :
    complementTable.wf = true ∧ (atStage .execute1 0x75#8).stage ≠ .fetch ∧
    (atStage .execute1 0x75#8).ir = Opcode.txa.byte complementTable ∧
    (∀ o : Opcode, o.byte complementTable ≠ (atStage .execute1 0x01#8).ir) ∧ Quiet (atStage .decode1 0x01#8) ∧
    Quiet (atStage .execute1 0x01#8) := by
  refine ⟨by decide, by decide, by decide, fun o => ?_, by decide, by decide⟩
  cases o <;> decide

theorem witness_AgendaIsTheInterleaving :
    State.reset.agenda = [] ∧
    passes (steps 2 { State.reset with agenda := [.post 0 7#8, .tick] })
      (fun t => t.iq == [0] && decide (t.stage = .decode1) && t.agenda == []) = true := by decide

theorem witness_Invariant : Invariant State.reset :=
  ⟨rfl, ⟨rfl, rfl⟩, fun _ h => absurd h (by simp [State.reset]), List.Pairwise.nil, by decide⟩

theorem witness_StepKeepsTheInvariant : passes (step State.reset) (fun _ => true) = true := by decide

/-- A state the Clock can start from, with a second device and an image. -/
theorem witness_BootStatesMeetTheInvariant :
    Boot (flashBytes 0#16 [0xEA#8, 0x00#8] (registerDevice (device 0 []) State.reset)) :=
  .flash _ _ 0#16 [0xEA#8, 0x00#8] (.register _ _ .reset rfl) rfl

end Sys2Proof.Tests
end

section
/-! PROOFS. The Zero flag (`10_state.md` R17). The one idea: every tick but `Execute1` of `CPX` and of `BNE` carries the
value of `Z` through unread, so that replacing `Z` before the tick is replacing it after the tick. That the tick keeps
`Z` and that nothing else depends on it both follow. -/

namespace Sys2Proof.Machine

/-! ### What carries `Z` through -/

theorem memoryPulse_with_z (s : State) (b : Bool) :
    memoryPulse { s with z := b } = { memoryPulse s with z := b } := by
  cases hw : s.pw <;> cases hr : s.pr <;>
    simp [memoryPulse, honourWrite, honourRead, hw, hr, setPendingRead, setPendingWrite, readNow, writeNow]

theorem decode1Stage_with_z (s : State) (b : Bool) :
    decode1Stage { s with z := b } = { decode1Stage s with z := b } := by
  cases hc : operandCount s.ir with
  | none => simp only [decode1Stage, hc]; rfl
  | some n =>
    obtain rfl | rfl | rfl := operandCount_le_two hc
    · simp only [decode1Stage, hc]; rfl
    · simp only [decode1Stage, hc]; rfl
    · by_cases hsys : s.ir = Opcode.sys.byte ∧ s.x = 1#8
      · simp only [decode1Stage, hc, if_pos hsys]; rfl
      · simp only [decode1Stage, hc, if_neg hsys]; rfl

theorem streamByte_with_z (s : State) (b : Bool) : streamByte { s with z := b } = { streamByte s with z := b } := by
  by_cases hend : s.dr = 0#8
  · simp only [streamByte, if_pos hend]; rfl
  · simp only [streamByte, if_neg hend]; rfl

theorem sysExecute1_with_z (s : State) (b : Bool) :
    sysExecute1 { s with z := b } = { sysExecute1 s with z := b } := by
  by_cases hint : s.x = 1#8
  · simp only [sysExecute1, if_pos hint]; rfl
  · by_cases hstr : s.x = 3#8
    · simp only [sysExecute1, if_neg hint, if_pos hstr]
      exact streamByte_with_z (readNow s) b
    · simp only [sysExecute1, if_neg hint, if_neg hstr]; rfl

theorem execute2Stage_with_z (s : State) (b : Bool) :
    execute2Stage { s with z := b } = { execute2Stage s with z := b } := by
  by_cases hinc : s.ir = Opcode.incAbs.byte
  · simp only [execute2Stage, if_pos hinc]
  · simp only [execute2Stage, if_neg hinc]; rfl

theorem serviceInterrupt_with_z (s : State) (b : Bool) :
    serviceInterrupt { s with z := b } = { serviceInterrupt s with z := b } := by
  cases hq : s.iq.head? with
  | none => simp only [serviceInterrupt, highestPriority, hq]
  | some d =>
    cases hb : bufOf s.devices d with
    | nil => simp only [serviceInterrupt, highestPriority, hq, hb]
    | cons item rest => simp only [serviceInterrupt, highestPriority, hq, hb]; rfl

theorem interruptCheckStage_with_z (s : State) (b : Bool) :
    interruptCheckStage { s with z := b } = { interruptCheckStage s with z := b } := by
  rw [interruptCheckStage, serviceInterrupt_with_z]
  rfl

/-- `Execute1` of every byte but the opcodes of `CPX` and `BNE`. -/
theorem execute1Stage_with_z (s : State) (b : Bool) (hcpx : s.ir ≠ Opcode.cpxAbs.byte)
    (hbne : s.ir ≠ Opcode.bneRel.byte) : execute1Stage { s with z := b } = { execute1Stage s with z := b } := by
  cases h : Opcode.ofByte s.ir with
  | none => simp only [execute1Stage, h]; rfl
  | some o =>
    cases o
    case cpxAbs => exact absurd ((ofByte_ir s _).mp h) hcpx
    case bneRel => exact absurd ((ofByte_ir s _).mp h) hbne
    case sys => simpa only [execute1Stage, h] using sysExecute1_with_z s b
    all_goals simp only [execute1Stage, h]; rfl

/-- The ticks that do not touch `Z`: all but `Execute1` of `CPX` and of `BNE`. -/
theorem tick_with_z (s : State) (b : Bool)
    (h : s.stage = .execute1 → s.ir ≠ Opcode.cpxAbs.byte ∧ s.ir ≠ Opcode.bneRel.byte) :
    tick { s with z := b } = { tick s with z := b } := by
  suffices hcpu : cpuPulse { s with z := b } = { cpuPulse s with z := b } by
    rw [tick_eq, tick_eq, hcpu, memoryPulse_with_z]
  cases hs : s.stage with
  | fetch => simp only [cpuPulse, hs]; rfl
  | decode1 => simpa only [cpuPulse, hs] using decode1Stage_with_z s b
  | decode2 => simp only [cpuPulse, hs]; rfl
  | execute1 =>
    obtain ⟨hcpx, hbne⟩ := h hs
    simpa only [cpuPulse, hs] using execute1Stage_with_z s b hcpx hbne
  | execute2 => simpa only [cpuPulse, hs] using execute2Stage_with_z s b
  | writeBack => simp only [cpuPulse, hs]; rfl
  | interruptCheck => simpa only [cpuPulse, hs] using interruptCheckStage_with_z s b

/-! ### The two ticks that touch `Z` -/

/-- The tick `Execute1` of `CPX` (R151). -/
theorem tick_execute1_cpxAbs (s : State) (hs : s.stage = .execute1) (hi : s.ir = Opcode.cpxAbs.byte) :
    tick s = memoryPulse (retire (latchZero (s.dr == s.x) s)) := by
  rw [tick_eq, cpuPulse_execute1 s hs, execute1Stage, (ofByte_ir s _).mpr hi]
  rfl

/-- The tick `Execute1` of `BNE` (R140). -/
theorem tick_execute1_bneRel (s : State) (hs : s.stage = .execute1) (hi : s.ir = Opcode.bneRel.byte) :
    tick s = memoryPulse (bneRelExecute1 s) := by
  rw [tick_eq, cpuPulse_execute1 s hs, execute1Stage, (ofByte_ir s _).mpr hi]

/-! ### The latch -/

/-- `Z` after a tick that is not `Execute1` of `CPX`. -/
theorem tick_z_of_not_cpxAbs (s : State) (h : ¬(s.stage = .execute1 ∧ s.ir = Opcode.cpxAbs.byte)) :
    (tick s).z = s.z := by
  by_cases hbne : s.stage = .execute1 ∧ s.ir = Opcode.bneRel.byte
  · obtain ⟨hs, hi⟩ := hbne
    rw [tick_execute1_bneRel s hs hi, memoryPulse_z]
    rfl
  · rw [show tick s = { tick s with z := s.z } from
      tick_with_z s s.z fun hs => ⟨fun hi => h ⟨hs, hi⟩, fun hi => hbne ⟨hs, hi⟩⟩]

/-- `Z` after any tick. -/
theorem tick_z (s : State) :
    (tick s).z = (s.z || decide (s.stage = .execute1 ∧ s.ir = Opcode.cpxAbs.byte ∧ s.dr = s.x)) := by
  by_cases h : s.stage = .execute1 ∧ s.ir = Opcode.cpxAbs.byte
  · obtain ⟨hs, hi⟩ := h
    rw [tick_execute1_cpxAbs s hs hi]
    simp [hs, hi, beq_eq_decide]
  · simp only [tick_z_of_not_cpxAbs s h, ← and_assoc, h, false_and, decide_false, Bool.or_false]

/-- `CPX` writes `Z` and looks at it for nothing else; `BNE` alone reads it. -/
theorem tick_ignores_z (s : State) (b : Bool) (hbne : ¬(s.stage = .execute1 ∧ s.ir = Opcode.bneRel.byte)) :
    { tick { s with z := b } with z := false } = { tick s with z := false } := by
  by_cases h : s.stage = .execute1 ∧ s.ir = Opcode.cpxAbs.byte
  · obtain ⟨hs, hi⟩ := h
    rw [tick_execute1_cpxAbs s hs hi, tick_execute1_cpxAbs { s with z := b } hs hi, ← memoryPulse_with_z,
      ← memoryPulse_with_z]
    rfl
  · rw [tick_with_z s b fun hs => ⟨fun hi => h ⟨hs, hi⟩, fun hi => hbne ⟨hs, hi⟩⟩]

/-- A post leaves `Z` as it is. -/
theorem postEvent_z {d : Nat} {item : Item} {s t : State} (h : postEvent d item s = .next t) : t.z = s.z := by
  obtain ⟨-, rfl⟩ := postEvent_next h
  simp

/-- A program load that goes through: all it can be (R204). -/
theorem flash_next {start : Addr} {bytes : List Byte} {s t : State} (h : flash start bytes s = .next t) :
    start.toNat + bytes.length ≤ 65536 ∧ t = flashBytes start bytes s := by
  by_cases hfit : start.toNat + bytes.length ≤ 65536
  · rw [flash, if_pos hfit] at h
    exact ⟨hfit, (Host.Outcome.next.inj h).symm⟩
  · simp [flash, hfit] at h

/-- A program load leaves `Z` as it is. -/
theorem flash_z {start : Addr} {bytes : List Byte} {s t : State} (h : flash start bytes s = .next t) : t.z = s.z := by
  obtain ⟨-, rfl⟩ := flash_next h
  rw [flashBytes_frame]

/-- Settles O32: `Z` is carried unread through every tick but the `Execute1` of `CPX`, which can only set it, and of
`BNE`, which keeps it. -/
theorem zeroFlagIsAOneWayLatch : Obligations.ZeroFlagIsAOneWayLatch :=
  ⟨tick_z, fun _ _ _ _ => postEvent_z, terminateEvent_z, fun _ _ _ _ => flash_z, tick_ignores_z⟩

end Sys2Proof.Machine
end

section
/-! PROOFS. The Memory component and the MMU (`20_memory.md`). The one idea: each half of the Memory's pulse is a single
record update in which both values of its flag are visible, so that the pulse is the one update after the other. -/

namespace Sys2Proof.Machine

/-! ### The address pair -/

/-- The byte-pair `setAddress` with all it stores (R54). -/
theorem setAddressPair_eq (low high : Byte) (s : State) :
    setAddressPair low high s = { s with lo := low, hi := high, ar := assemble high low } := rfl

/-- Settles O6: the assembled address has `HI` as its high byte, so the pair's low byte comes first (R55). -/
theorem addressAssemblyIsLittleEndian : Obligations.AddressAssemblyIsLittleEndian :=
  ⟨fun s => toNat_assemble s.hi s.lo, setAddressPair_eq, by rw [setAddressPair_eq]; decide⟩

/-! ### The Memory's operations -/

/-- What a cell reads as after `write()` (R45). -/
theorem writeNow_mem_read (s : State) (h : s.mem.wf = true) (a : Addr) :
    (writeNow s).mem.read a = if a = s.ar then s.dr else s.mem.read a :=
  Memory.read_write s.mem s.ar a s.dr h

/-- `write()` touches the memory alone (R45). -/
theorem writeNow_frame (s : State) : writeNow s = { s with mem := (writeNow s).mem } := rfl

/-- Settles O7: the read-after-write law of the memory for `write()`; the other operations are their own equations. -/
theorem memoryOperationsMoveOneByte : Obligations.MemoryOperationsMoveOneByte := by
  refine ⟨?read, fun s h => ⟨writeNow_mem_read s h, writeNow_frame s⟩, ?address, ?data, ?pendingRead, ?pendingWrite,
    ?getters⟩
  case read | address | data | pendingRead | pendingWrite => intros; rfl
  case getters => exact fun _ => ⟨rfl, rfl, rfl, rfl⟩

/-! ### The Memory's pulse -/

/-- The write half of the pulse, whether or not a write is pending (R48). -/
theorem honourWrite_eq (s : State) :
    honourWrite s = { s with mem := if s.pw then s.mem.write s.ar s.dr else s.mem, pw := false } := by
  cases hw : s.pw with
  | true => simp only [honourWrite, hw, if_true]; rfl
  | false => simp only [honourWrite, hw, Bool.false_eq_true, if_false]; rw [← hw]

/-- The read half of the pulse, whether or not a read is pending (R48). -/
theorem honourRead_eq (s : State) :
    honourRead s = { s with dr := if s.pr then s.mem.read s.ar else s.dr, pr := false } := by
  cases hr : s.pr with
  | true => simp only [honourRead, hr, if_true]; rfl
  | false => simp only [honourRead, hr, Bool.false_eq_true, if_false]; rw [← hr]

/-- The cell that the read half finds at the address register after the write half: the byte just written, if one was
(R48). -/
theorem read_honoured_write (m : Memory) (a : Addr) (v : Byte) (w : Bool) (h : m.wf = true) :
    Memory.read (if w then m.write a v else m) a = if w then v else m.read a := by
  rw [apply_ite (Memory.read · a), Memory.read_write_same m a v h]

/-- The whole pulse, for all four combinations of the two flags (R48). -/
theorem memoryPulse_eq (s : State) (h : s.mem.wf = true) :
    memoryPulse s =
      { s with
        mem := if s.pw then s.mem.write s.ar s.dr else s.mem
        dr := if s.pr then (if s.pw then s.dr else s.mem.read s.ar) else s.dr
        pw := false
        pr := false } := by
  simp only [memoryPulse, honourRead_eq, honourWrite_eq, read_honoured_write _ _ _ _ h]

/-- Settles O8: the two listeners in their order, and the Memory's pulse as its write half and then its read half. -/
theorem memoryPulseWritesThenReads : Obligations.MemoryPulseWritesThenReads :=
  ⟨fun s => tick_eq s, memoryPulse_eq⟩

end Sys2Proof.Machine
end

section
/-! PROOFS. The stage-transition table (`40_pipeline.md` R103). The one idea: the Memory's pulse never touches `STAGE`, so
each row is the stage that one stage function of the CPU leaves, and three of these functions (`Decode1`, `Execute1`,
`Execute2`) choose between exits. What each of the three leaves is one equation over all states, its condition the guard
of the table. -/

namespace Sys2Proof.Machine

/-! ### The stages with more than one exit -/

/-- `Decode1` leaves for `Decode2` exactly when it consumes a low address byte (R95, R96). -/
theorem decode1Stage_stage (s : State) :
    (decode1Stage s).stage =
      if operandCount s.ir = some 2 ∧ ¬(s.ir = Opcode.sys.byte ∧ s.x = 1#8) then .decode2 else .execute1 := by
  cases hc : operandCount s.ir with
  | none => simp [decode1Stage, hc]
  | some n =>
    obtain rfl | rfl | rfl := operandCount_le_two hc
    · simp [decode1Stage, hc]
    · simp [decode1Stage, hc]
    · by_cases hsys : s.ir = Opcode.sys.byte ∧ s.x = 1#8
      · rw [if_neg fun h => h.2 hsys]
        simp only [decode1Stage, hc, if_pos hsys, decodeNone_stage]
      · rw [if_pos ⟨rfl, hsys⟩]
        simp only [decode1Stage, hc, if_neg hsys, decodeLow_stage]

/-- A string tick ends the instruction on a zero cell at `AR` and re-enters `Execute1` on any other (R163). -/
theorem streamTick_stage (s : State) :
    (streamTick s).stage = if s.mem.read s.ar = 0#8 then .interruptCheck else .execute1 := by
  by_cases hend : s.mem.read s.ar = 0#8 <;> simp [streamTick, streamByte, hend]

/-- Of the sub-modes of `SYS` only the string stays in `Execute1`, and only before its terminator (R160 to R165). -/
theorem sysExecute1_stage (s : State) :
    (sysExecute1 s).stage = if s.x = 3#8 ∧ s.mem.read s.ar ≠ 0#8 then .execute1 else .interruptCheck := by
  by_cases hstr : s.x = 3#8
  · simp [sysExecute1, hstr, streamTick_stage]
  · by_cases hint : s.x = 1#8 <;> simp [sysExecute1, hstr, hint]

/-- `Execute1` of `INC` goes on to `Execute2`, that of a string may stay, and every other byte's, recognized or not, ends
the instruction (R98). -/
theorem execute1Stage_stage (s : State) :
    (execute1Stage s).stage =
      if s.ir = Opcode.incAbs.byte then .execute2
      else if s.ir = Opcode.sys.byte ∧ s.x = 3#8 ∧ s.mem.read s.ar ≠ 0#8 then .execute1
      else .interruptCheck := by
  simp only [← ofByte_ir]
  cases h : Opcode.ofByte s.ir with
  | none => simp [execute1Stage, h, unrecognizedExecute1]
  | some o =>
    cases o
    case incAbs => simp only [execute1Stage, h]; rfl
    case sys => simp [execute1Stage, h, sysExecute1_stage]
    all_goals simp only [execute1Stage, h]; rfl

/-- `Execute2` (R99). -/
theorem execute2Stage_stage (s : State) :
    (execute2Stage s).stage = if s.ir = Opcode.incAbs.byte then .writeBack else .interruptCheck := by
  by_cases hinc : s.ir = Opcode.incAbs.byte <;> simp [execute2Stage, hinc]

/-! ### The table -/

/-- `STAGE` after a tick is what the CPU's pulse leaves (R48, R90). -/
theorem tick_stage (s : State) : (tick s).stage = (cpuPulse s).stage :=
  memoryPulse_stage (cpuPulse s)

/-- The opcodes of `INC` and `SYS` differ, so that the rows of `Execute1` exclude each other. -/
theorem sys_byte_ne_incAbs_byte : Opcode.sys.byte ≠ Opcode.incAbs.byte := by decide

/-- Settles O29: the rows of one stage are the branches of its equation, picked by the row's guard. -/
theorem stageTransitionTable : Obligations.StageTransitionTable := by
  intro s
  rw [tick_stage]
  refine ⟨?fetch, ?noAddress, ?sysInteger, ?address, ?decode2, ?inc, ?string, ?other, ?execute2, ?writeBack,
    ?interruptCheck⟩
  case fetch =>
    intro hs
    rw [cpuPulse_fetch s hs, fetchStage_stage]
  case noAddress =>
    intro hs hc
    rw [cpuPulse_decode1 s hs, decode1Stage_stage, if_neg]
    rintro ⟨h2, -⟩
    simp [h2] at hc
  case sysInteger =>
    intro hs _ hi hx
    rw [cpuPulse_decode1 s hs, decode1Stage_stage, if_neg fun h => h.2 ⟨hi, hx⟩]
  case address =>
    intro hs hc hx
    rw [cpuPulse_decode1 s hs, decode1Stage_stage, if_pos ⟨hc, hx⟩]
  case decode2 =>
    intro hs
    rw [cpuPulse_decode2 s hs, decodeHigh_stage]
  case inc =>
    intro hs hi
    rw [cpuPulse_execute1 s hs, execute1Stage_stage, if_pos hi]
  case string =>
    intro hs hi hx hm
    rw [cpuPulse_execute1 s hs, execute1Stage_stage, if_neg (hi ▸ sys_byte_ne_incAbs_byte), if_pos ⟨hi, hx, hm⟩]
  case other =>
    intro hs hi hstr
    rw [cpuPulse_execute1 s hs, execute1Stage_stage, if_neg hi, if_neg hstr]
  case execute2 =>
    rintro hs ⟨-, honly, -⟩
    rw [cpuPulse_execute2 s hs, execute2Stage_stage, if_pos (honly (.inl hs))]
  case writeBack =>
    intro hs
    rw [cpuPulse_writeBack s hs, writeBackStage, retire_stage]
  case interruptCheck =>
    intro hs
    rw [cpuPulse_interruptCheck s hs, interruptCheckStage_stage]

end Sys2Proof.Machine
end

section
/-! PROOFS. The stopped Clock (`41_moves_nop_halt.md` R128, `40_pipeline.md` R107). The one idea: the step and the move
both test `RUN` before they look at anything else, the agenda included. -/

namespace Sys2Proof.Machine

/-- Settles O47: `step_stopped` and `perform_stopped`, which ask nothing of the agenda or of the move. -/
theorem haltIsPermanent : Obligations.HaltIsPermanent :=
  fun s hrun => ⟨step_stopped s hrun, fun e => perform_stopped s e hrun⟩

end Sys2Proof.Machine
end

section
/-! PROOFS. The interrupt queue and the device buffers (`60_exceptions.md` R179 to R184). The one idea: `sortByPrio` is the
library's insertion sort by priority, which leaves a sorted list as it is and keeps every sorted sublist; the entries of
one priority are such a sublist. -/

namespace Sys2Proof.Machine

/-! ### The sort -/

theorem insertByPrio_eq_orderedInsert (ds : List Device) (d : Nat) (q : List Nat) :
    insertByPrio ds d q = q.orderedInsert (fun a b => prioOf ds a ≤ prioOf ds b) d := by
  induction q with
  | nil => rfl
  | cons e rest ih => simp only [insertByPrio, List.orderedInsert_cons, ih]

theorem sortByPrio_eq_insertionSort (ds : List Device) (q : List Nat) :
    sortByPrio ds q = q.insertionSort (fun a b => prioOf ds a ≤ prioOf ds b) := by
  induction q with
  | nil => rfl
  | cons d rest ih => rw [sortByPrio, ih, insertByPrio_eq_orderedInsert, List.insertionSort_cons]

/-- Sorting loses and adds no entry. -/
theorem perm_sortByPrio (ds : List Device) (q : List Nat) : (sortByPrio ds q).Perm q := by
  rw [sortByPrio_eq_insertionSort]
  exact List.perm_insertionSort _ q

/-- A sorted queue is a fixed point of the sort. -/
theorem sortByPrio_of_pairwise (ds : List Device) (q : List Nat)
    (h : q.Pairwise (fun a b => prioOf ds a ≤ prioOf ds b)) : sortByPrio ds q = q := by
  rw [sortByPrio_eq_insertionSort]
  exact h.insertionSort_eq

/-- Stability: a sublist that is in order stays one. -/
theorem sublist_sortByPrio (ds : List Device) {c q : List Nat}
    (hc : c.Pairwise (fun a b => prioOf ds a ≤ prioOf ds b)) (h : c.Sublist q) : c.Sublist (sortByPrio ds q) := by
  rw [sortByPrio_eq_insertionSort]
  exact List.sublist_insertionSort hc h

/-- Entries of one priority are in order, however they stand. -/
theorem pairwise_filter_prio (ds : List Device) (p : Int) (q : List Nat) :
    (q.filter (fun a => prioOf ds a = p)).Pairwise (fun a b => prioOf ds a ≤ prioOf ds b) := by
  have hp : ∀ a ∈ q.filter (fun a => prioOf ds a = p), prioOf ds a = p := fun a ha => by
    simpa using List.of_mem_filter ha
  exact List.pairwise_of_forall_mem_list fun a ha b hb => (hp a ha).trans_le (hp b hb).ge

/-- The entries of one priority stand in the sorted queue as they stood before (R180): they are a sublist of it, and the
sorted queue has no others of that priority. -/
theorem filter_prio_sortByPrio (ds : List Device) (p : Int) (q : List Nat) :
    (sortByPrio ds q).filter (fun a => prioOf ds a = p) = q.filter (fun a => prioOf ds a = p) := by
  have hsub : (q.filter (fun a => prioOf ds a = p)).Sublist
      ((sortByPrio ds q).filter (fun a => prioOf ds a = p)) := by
    simpa using (sublist_sortByPrio ds (pairwise_filter_prio ds p q) List.filter_sublist).filter
      (fun a => prioOf ds a = p)
  exact (hsub.eq_of_length ((perm_sortByPrio ds q).filter _).length_eq.symm).symm

/-! ### The controller -/

/-- Accepting touches the queue alone (R180). -/
theorem acceptInterrupt_eq (d : Nat) (s : State) :
    acceptInterrupt d s = { s with iq := sortByPrio s.devices (s.iq ++ [d]) } := rfl

/-- Settles O41: the new queue is the stable sort of the old one with `d` at its end. -/
theorem acceptedInterruptsAreSortedStably : Obligations.AcceptedInterruptsAreSortedStably := fun d s =>
  ⟨sortByPrio s.devices (s.iq ++ [d]), acceptInterrupt_eq d s, perm_sortByPrio _ _, pairwise_sortByPrio _ _,
    fun p => filter_prio_sortByPrio _ p _⟩

theorem highestPriority_eq_none_iff (s : State) : highestPriority s = none ↔ s.iq = [] :=
  List.head?_eq_none_iff

/-- The head of a sorted queue is as urgent as every entry (R181). -/
theorem highestPriority_le {s : State} (h : QueueSorted s) {d : Nat} (hd : highestPriority s = some d) :
    ∀ e ∈ s.iq, prioOf s.devices d ≤ prioOf s.devices e := by
  obtain ⟨rest, hq⟩ := List.head?_eq_some_iff.mp hd
  rw [QueueSorted, hq, List.pairwise_cons] at h
  obtain ⟨hhead, -⟩ := h
  rw [hq, List.forall_mem_cons]
  exact ⟨le_rfl, hhead⟩

/-- Settles O42: a sorted queue is its own re-sort, and its head is minimal. -/
theorem highestPriorityIsTheHead : Obligations.HighestPriorityIsTheHead := by
  intro s hs
  have hsort : sortByPrio s.devices s.iq = s.iq := sortByPrio_of_pairwise s.devices s.iq hs
  exact ⟨hsort, by rw [hsort, highestPriority], highestPriority_eq_none_iff s, fun _ => highestPriority_le hs⟩

/-- Settles O40: the two operations are their record updates (R179, R182). -/
theorem controllerRegistersAndClears : Obligations.ControllerRegistersAndClears :=
  ⟨fun _ _ => rfl, fun _ => rfl⟩

/-! ### The `POST` -/

/-- Setting a buffer keeps whatever does not depend on it, of every device. -/
theorem map_setBuf {α : Type} (f : Device → α) (hf : ∀ (dev : Device) (b : List Item), f { dev with buf := b } = f dev)
    (ds : List Device) (d : Nat) (b : List Item) : (setBuf ds d b).map f = ds.map f := by
  refine List.ext_getElem? fun i => ?_
  rw [List.getElem?_map, List.getElem?_map, setBuf, List.getElem?_modify]
  cases ds[i]? with
  | none => rfl
  | some dev => by_cases h : d = i <;> simp [h, hf]

/-- The two halves of a `POST` as one update: buffering changes no priority, so the queue is sorted as before it (R184). -/
theorem acceptInterrupt_bufferItem (d : Nat) (item : Item) (s : State) :
    acceptInterrupt d (bufferItem d item s) =
      { s with
        devices := setBuf s.devices d (bufOf s.devices d ++ [item])
        iq := sortByPrio s.devices (s.iq ++ [d]) } := by
  rw [acceptInterrupt_eq, bufferItem_devices, sortByPrio_congr _ s.devices (prioOf_setBuf s.devices d · _)]
  rfl

/-- Settles O43: `acceptInterrupt_bufferItem` is the whole move, and its devices differ in `d`'s buffer only. -/
theorem postBuffersAndQueues : Obligations.PostBuffersAndQueues := by
  intro d item s hrun hd
  rw [perform_post s d item hrun, postEvent_registered d item s hd, acceptInterrupt_bufferItem]
  refine ⟨_, rfl, ?frame, ?buffer, ?others, ?attributes⟩
  case frame => rfl
  case buffer => exact bufOf_setBuf_self s.devices d _ hd
  case others => exact fun e he => bufOf_setBuf_other s.devices d e _ he.symm
  case attributes => exact map_setBuf _ (fun _ _ => rfl) s.devices d _

end Sys2Proof.Machine
end

section
/-! PROOFS. Encoding (`30_encoding.md` sections 1 to 4). The one idea: the two bytes the decoder looks at begin with
the instruction's operand bytes, so the decoder finds them where the encoder has put them, and drops exactly them. -/

namespace Sys2Proof

/-! ### What the decoder answers -/

/-- What the decoder answers once the opcode is recognized. -/
theorem decode_recognized {x b0 : Byte} {rest : List Byte} {opc : OpcodeTable} {i : Instr}
    (h : decode3 x b0 (rest.getD 0 0#8) (rest.getD 1 0#8) opc = some i) :
    decode x (b0 :: rest) opc =
      if rest.length < (operandBytes i).length then .error .truncated
      else .ok (i, rest.drop (operandBytes i).length) := by
  simp only [decode, h]

/-- What the decoder answers where the opcode is not recognized. -/
theorem decode_unrecognized {x b0 : Byte} {rest : List Byte} {opc : OpcodeTable}
    (h : Opcode.ofByte b0 opc = none) : decode x (b0 :: rest) opc = .error (.unrecognized b0) := by
  simp [decode, decode3, h]

/-- An instruction that is decoded is the one of a recognized opcode. -/
theorem decode3_eq_some {x b0 b1 b2 : Byte} {opc : OpcodeTable} {i : Instr} :
    decode3 x b0 b1 b2 opc = some i ↔ ∃ o, Opcode.ofByte b0 opc = some o ∧ instrOf x o b1 b2 = i :=
  Option.map_eq_some_iff

theorem decode3_eq_none {x b0 b1 b2 : Byte} {opc : OpcodeTable} :
    decode3 x b0 b1 b2 opc = none ↔ Opcode.ofByte b0 opc = none :=
  Option.map_eq_none_iff

/-- A decode that goes through: its opcode is recognized, its operand bytes are there, and what is left is what follows
them. -/
theorem decode_ok {x : Byte} {bytes rest : List Byte} {opc : OpcodeTable} {i : Instr}
    (h : decode x bytes opc = .ok (i, rest)) :
    ∃ b0 tail, bytes = b0 :: tail ∧ decode3 x b0 (tail.getD 0 0#8) (tail.getD 1 0#8) opc = some i ∧
      (operandBytes i).length ≤ tail.length ∧ tail.drop (operandBytes i).length = rest := by
  cases bytes with
  | nil => simp [decode] at h
  | cons b0 tail =>
    cases hd : decode3 x b0 (tail.getD 0 0#8) (tail.getD 1 0#8) opc with
    | none => simp [decode_unrecognized (decode3_eq_none.mp hd)] at h
    | some j =>
      rw [decode_recognized hd] at h
      split at h
      · simp at h
      · rename_i hlen
        simp only [Except.ok.injEq, Prod.mk.injEq] at h
        obtain ⟨rfl, hrest⟩ := h
        exact ⟨b0, tail, rfl, hd, Nat.le_of_not_lt hlen, hrest⟩

/-! ### Operand bytes -/

/-- Looked up by its name and its operand bytes, a well-formed instruction is found again (R72, R73). -/
theorem instrOf_operandBytes (x : Byte) (i : Instr) (rest : List Byte) (h : i.wellFormed x = true) :
    instrOf x i.opcode ((operandBytes i ++ rest).getD 0 0#8) ((operandBytes i ++ rest).getD 1 0#8) = i := by
  cases i
  case sys operand =>
    cases operand with
    | none => simp_all [Instr.wellFormed, instrOf, Instr.opcode]
    | some a => simp_all [Instr.wellFormed, instrOf, Instr.opcode, operandBytes]
  all_goals simp [instrOf, Instr.opcode, operandBytes]

/-- The operand bytes of a decoded instruction are the first of the bytes it was decoded from (R70, R72). -/
theorem operandBytes_instrOf_prefix (x b1 b2 : Byte) (o : Opcode) : operandBytes (instrOf x o b1 b2) <+: [b1, b2] := by
  cases o
  case sys => by_cases hx : x = 1#8 <;> simp [instrOf, operandBytes, hx]
  all_goals simp [instrOf, operandBytes]

/-- A decoded instruction is well-formed at the `X` it was decoded at (R73, R80). -/
theorem wellFormed_instrOf (x b1 b2 : Byte) (o : Opcode) : (instrOf x o b1 b2).wellFormed x = true := by
  cases o
  case sys => by_cases hx : x = 1#8 <;> simp [instrOf, Instr.wellFormed, hx]
  all_goals rfl

/-- What the first two entries begin with, missing ones counting as `d`, the list begins with, if it is long enough. -/
theorem prefix_of_prefix_getD {l tail : List Byte} {d : Byte} (h : l <+: [tail.getD 0 d, tail.getD 1 d])
    (hlen : l.length ≤ tail.length) : l <+: tail := by
  match tail with
  | [] => simp_all
  | [a] => exact List.prefix_of_prefix_length_le h (List.prefix_append [a] [d]) hlen
  | a :: b :: t => exact h.trans (List.prefix_append [a, b] t)

/-! ### The statements -/

/-- Settles O3: the lookup finds the opcode, and the instruction of that opcode and its own operand bytes is itself. -/
theorem decodeOfEncodeIsTheInstruction : Obligations.DecodeOfEncodeIsTheInstruction := by
  intro opc x i rest hopc hi
  have hd : decode3 x (i.opcode.byte opc) ((operandBytes i ++ rest).getD 0 0#8) ((operandBytes i ++ rest).getD 1 0#8)
      opc = some i :=
    decode3_eq_some.mpr ⟨_, Opcode.ofByte_byte_of_wf _ opc hopc, instrOf_operandBytes x i rest hi⟩
  rw [encode, List.cons_append, decode_recognized hd, if_neg (by simp), List.drop_left]

/-- Settles O4: what follows the opcode byte begins with the operand bytes, and the rest is what is left. -/
theorem decodedBytesAreTheEncoding : Obligations.DecodedBytesAreTheEncoding := by
  intro opc x bytes i rest h
  obtain ⟨b0, tail, rfl, hd, hlen, rfl⟩ := decode_ok h
  obtain ⟨o, ho, rfl⟩ := decode3_eq_some.mp hd
  refine ⟨?_, wellFormed_instrOf _ _ _ _⟩
  rw [encode, opcode_instrOf, Opcode.byte_of_ofByte ho, List.cons_append,
    List.prefix_iff_eq_append.mp (prefix_of_prefix_getD (operandBytes_instrOf_prefix _ _ _ _) hlen)]

/-- Settles O5: the answer is decided by the lookup of the first byte. -/
theorem unlistedBytesAreRejectedByName : Obligations.UnlistedBytesAreRejectedByName := by
  intro opc x b rest
  rw [← Opcode.ofByte_eq_none]
  refine ⟨fun h => ?_, decode_unrecognized⟩
  cases hd : decode3 x b (rest.getD 0 0#8) (rest.getD 1 0#8) opc with
  | none => exact decode3_eq_none.mp hd
  | some i =>
    rw [decode_recognized hd] at h
    split at h <;> simp at h

/-- Settles O1: each word is evaluated. -/
theorem sampleWordsDecode : Obligations.SampleWordsDecode := by
  unfold Obligations.SampleWordsDecode
  decide

/-- A byte that is no opcode is in no list of opcode bytes. -/
theorem not_mem_map_byte {b : Byte} (h : ∀ o : Opcode, o.byte ≠ b) (os : List Opcode) :
    b ∉ os.map (fun o => o.byte) := by
  rw [List.mem_map]
  rintro ⟨o, -, ho⟩
  exact h o ho

/-- Settles O2: the 18 opcode bytes one by one, and every other byte at once, being in none of the three lists. -/
theorem operandCountTable : Obligations.OperandCountTable := by
  intro b
  cases h : Opcode.ofByte b with
  | none =>
    have hb := not_mem_map_byte (Opcode.ofByte_eq_none.mp h)
    rw [operandCount, h]
    exact ((if_neg (hb [.txa, .tya, .tax, .tay, .nop, .brk])).trans
      ((if_neg (hb [.ldaImm, .ldxImm, .ldyImm, .bneRel])).trans
        (if_neg (hb [.ldaAbs, .ldxAbs, .ldyAbs, .staAbs, .adcAbs, .cpxAbs, .incAbs, .sys])))).symm
  | some o =>
    rw [← Opcode.byte_of_ofByte h]
    cases o <;> decide

end Sys2Proof
end

section
/-! PROOFS. Who writes what in a tick (`10_state.md` R11 to R30, `20_memory.md` R62). The one idea: `Execute1` is the
lookup of `IR` and then one of 18 register updates, and outside `Execute1` and `InterruptCheck` a tick only transports
bytes; so each field needs its writers named once among the 18 updates, and once among the stages. -/

namespace Sys2Proof.Machine

/-! ### `Execute1` of an opcode -/

/-- The register update of an opcode, whatever byte spells it: what `execute1Stage` runs once the lookup of `IR` has
found it (R98). -/
def opcodeExecute1 : Opcode → State → State
  | .txa => txaExecute1
  | .tya => tyaExecute1
  | .tax => taxExecute1
  | .tay => tayExecute1
  | .nop => nopExecute1
  | .brk => brkExecute1
  | .ldaImm => ldaImmExecute1
  | .ldxImm => ldxImmExecute1
  | .ldyImm => ldyImmExecute1
  | .ldaAbs => ldaAbsExecute1
  | .ldxAbs => ldxAbsExecute1
  | .ldyAbs => ldyAbsExecute1
  | .staAbs => staAbsExecute1
  | .bneRel => bneRelExecute1
  | .adcAbs => adcAbsExecute1
  | .cpxAbs => cpxAbsExecute1
  | .incAbs => incAbsExecute1
  | .sys => sysExecute1

theorem execute1Stage_recognized {s : State} {opc : OpcodeTable} {o : Opcode} (h : Opcode.ofByte s.ir opc = some o) :
    execute1Stage s opc = opcodeExecute1 o s := by
  rw [execute1Stage, h]
  cases o <;> rfl

theorem execute1Stage_unrecognized {s : State} {opc : OpcodeTable} (h : Opcode.ofByte s.ir opc = none) :
    execute1Stage s opc = unrecognizedExecute1 s := by
  rw [execute1Stage, h]

/-- `RUN` is written by `BRK` alone (R126). -/
theorem opcodeExecute1_run (o : Opcode) (s : State) :
    (opcodeExecute1 o s).run = (s.run && !decide (o = .brk)) := by
  cases o
  case brk => simp [opcodeExecute1, brkExecute1]
  case sys => exact (congrArg State.run (sysExecute1_frame s)).trans (Bool.and_true s.run).symm
  all_goals exact (Bool.and_true s.run).symm

/-- `PC` is written by a taken `BNE` alone (R140). -/
theorem opcodeExecute1_pc (o : Opcode) (s : State) :
    (opcodeExecute1 o s).pc = if o = .bneRel ∧ s.z = false then branchTarget s.pc s.dr else s.pc := by
  cases o
  case bneRel => cases hz : s.z <;> simp [opcodeExecute1, bneRelExecute1, hz]
  case sys => exact (congrArg State.pc (sysExecute1_frame s) :)
  all_goals rfl

/-- A write is flagged by `STA` alone (R137). -/
theorem opcodeExecute1_pw {o : Opcode} (h : o ≠ .staAbs) (s : State) : (opcodeExecute1 o s).pw = s.pw := by
  cases o
  case staAbs => exact absurd rfl h
  case sys => exact (congrArg State.pw (sysExecute1_frame s) :)
  all_goals rfl

theorem opcodeExecute1_mem (o : Opcode) (s : State) : (opcodeExecute1 o s).mem = s.mem := by
  cases o
  case sys => exact (congrArg State.mem (sysExecute1_frame s) :)
  all_goals rfl

theorem opcodeExecute1_ir (o : Opcode) (s : State) : (opcodeExecute1 o s).ir = s.ir := by
  cases o
  case sys => exact (congrArg State.ir (sysExecute1_frame s) :)
  all_goals rfl

/-- The opcodes that write `ACC` in `Execute1` (R11). -/
theorem opcodeExecute1_acc (s : State) :
    ∀ o ∉ [Opcode.ldaImm, .ldaAbs, .txa, .tya, .adcAbs, .incAbs], (opcodeExecute1 o s).acc = s.acc := by
  intro o h
  cases o
  case ldaImm | ldaAbs | txa | tya | adcAbs | incAbs => exact absurd (by decide) h
  case sys => exact (congrArg State.acc (sysExecute1_frame s) :)
  all_goals rfl

/-- The opcodes that write `X` (R11). -/
theorem opcodeExecute1_x (s : State) :
    ∀ o ∉ [Opcode.ldxImm, .ldxAbs, .tax], (opcodeExecute1 o s).x = s.x := by
  intro o h
  cases o
  case ldxImm | ldxAbs | tax => exact absurd (by decide) h
  case sys => exact (congrArg State.x (sysExecute1_frame s) :)
  all_goals rfl

/-- The opcodes that write `Y` (R11). -/
theorem opcodeExecute1_y (s : State) :
    ∀ o ∉ [Opcode.ldyImm, .ldyAbs, .tay], (opcodeExecute1 o s).y = s.y := by
  intro o h
  cases o
  case ldyImm | ldyAbs | tay => exact absurd (by decide) h
  case sys => exact (congrArg State.y (sysExecute1_frame s) :)
  all_goals rfl

/-- `SYS` emits at most one event in a tick (R161, R163). -/
theorem sysExecute1_out (s : State) :
    (sysExecute1 s).out = s.out ∨ ∃ e, (sysExecute1 s).out = s.out ++ [e] := by
  unfold sysExecute1 streamTick streamByte
  split
  · exact .inr ⟨_, rfl⟩
  · split
    · split
      · exact .inl rfl
      · exact .inr ⟨_, rfl⟩
    · exact .inl rfl

theorem opcodeExecute1_out (o : Opcode) (s : State) :
    (opcodeExecute1 o s).out = s.out ∨ ∃ e, (opcodeExecute1 o s).out = s.out ++ [e] := by
  cases o
  case sys => exact sysExecute1_out s
  all_goals exact .inl rfl

/-! ### `Execute1` of a byte -/

/-- A field that an `Execute1` changes is changed by one of the opcodes that can change it. -/
theorem exists_opcode_of_execute1_changes {α : Type} (field : State → α) {os : List Opcode} {s : State}
    (hu : field (unrecognizedExecute1 s) = field s) (ho : ∀ o ∉ os, field (opcodeExecute1 o s) = field s)
    (h : field (execute1Stage s) ≠ field s) : ∃ o ∈ os, s.ir = o.byte := by
  cases hi : Opcode.ofByte s.ir with
  | none => exact absurd (execute1Stage_unrecognized hi ▸ hu) h
  | some o =>
    by_cases hmem : o ∈ os
    · exact ⟨o, hmem, (ofByte_ir s o).mp hi⟩
    · exact absurd (execute1Stage_recognized hi ▸ ho o hmem) h

theorem execute1Stage_run (s : State) :
    (execute1Stage s).run = (s.run && !decide (s.ir = Opcode.brk.byte)) := by
  simp only [← ofByte_ir]
  cases h : Opcode.ofByte s.ir with
  | none => simp [execute1Stage_unrecognized h, unrecognizedExecute1, raiseDecodeFault]
  | some o => simp [execute1Stage_recognized h, opcodeExecute1_run]

theorem execute1Stage_pc (s : State) :
    (execute1Stage s).pc =
      if s.ir = Opcode.bneRel.byte ∧ s.z = false then branchTarget s.pc s.dr else s.pc := by
  simp only [← ofByte_ir]
  cases h : Opcode.ofByte s.ir with
  | none => simp [execute1Stage_unrecognized h, unrecognizedExecute1, raiseDecodeFault]
  | some o => simp [execute1Stage_recognized h, opcodeExecute1_pc]

theorem execute1Stage_ir (s : State) : (execute1Stage s).ir = s.ir := by
  cases h : Opcode.ofByte s.ir with
  | none => rw [execute1Stage_unrecognized h]; rfl
  | some o => rw [execute1Stage_recognized h, opcodeExecute1_ir]

theorem execute1Stage_mem (s : State) : (execute1Stage s).mem = s.mem := by
  cases h : Opcode.ofByte s.ir with
  | none => rw [execute1Stage_unrecognized h]; rfl
  | some o => rw [execute1Stage_recognized h, opcodeExecute1_mem]

theorem execute1Stage_pw (s : State) (hi : s.ir ≠ Opcode.staAbs.byte) : (execute1Stage s).pw = s.pw := by
  cases h : Opcode.ofByte s.ir with
  | none => rw [execute1Stage_unrecognized h]; rfl
  | some o =>
    rw [execute1Stage_recognized h, opcodeExecute1_pw]
    rintro rfl
    exact hi ((ofByte_ir s _).mp h)

theorem execute1Stage_out (s : State) :
    (execute1Stage s).out = s.out ∨ ∃ e, (execute1Stage s).out = s.out ++ [e] := by
  cases h : Opcode.ofByte s.ir with
  | none => rw [execute1Stage_unrecognized h]; exact .inr ⟨_, rfl⟩
  | some o => rw [execute1Stage_recognized h]; exact opcodeExecute1_out o s

/-! ### The other stages -/

/-- `Decode1` consumes a byte exactly where the table and the override of `SYS` say so (R95, R96). -/
theorem decode1Stage_pc (s : State) :
    (decode1Stage s).pc =
      if operandCount s.ir = some 1 ∨ (operandCount s.ir = some 2 ∧ ¬(s.ir = Opcode.sys.byte ∧ s.x = 1#8))
      then s.pc + 1#16 else s.pc := by
  cases hc : operandCount s.ir with
  | none => simp [decode1Stage, hc]
  | some n =>
    obtain rfl | rfl | rfl := operandCount_le_two hc
    · simp [decode1Stage, hc]
    · simp [decode1Stage, hc]
    · by_cases hsys : s.ir = Opcode.sys.byte ∧ s.x = 1#8
      · rw [if_neg (by simp [hsys])]
        simp only [decode1Stage, hc, if_pos hsys, decodeNone_pc]
      · rw [if_pos (.inr ⟨rfl, hsys⟩)]
        simp only [decode1Stage, hc, if_neg hsys, decodeLow_pc]

/-- The stages that transport bytes: what `Fetch`, `Decode1`, `Decode2`, `Execute2` and `WriteBack` leave as it is. -/
theorem cpuPulse_transport_frame (s : State) (he : s.stage ≠ .execute1) (hc : s.stage ≠ .interruptCheck) :
    cpuPulse s = { cpuPulse s with
      x := s.x, y := s.y, z := s.z, run := s.run, mem := s.mem, pr := s.pr, devices := s.devices, iq := s.iq,
      out := s.out, agenda := s.agenda } := by
  cases hs : s.stage with
  | fetch => rw [cpuPulse_fetch s hs]; rfl
  | decode1 =>
    rw [cpuPulse_decode1 s hs]
    obtain h | h | h := decode1Stage_cases s <;> rw [h] <;> rfl
  | decode2 => rw [cpuPulse_decode2 s hs]; rfl
  | execute1 => exact absurd hs he
  | execute2 =>
    rw [cpuPulse_execute2 s hs, execute2Stage]
    split <;> rfl
  | writeBack => rw [cpuPulse_writeBack s hs]; rfl
  | interruptCheck => exact absurd hs hc

/-- Outside `Execute1` no tick touches a register that is the program's own, `ACC` in `Execute2` excepted, nor `RUN`, nor
memory directly. -/
theorem cpuPulse_frame (s : State) (he : s.stage ≠ .execute1) :
    cpuPulse s = { cpuPulse s with
      x := s.x, y := s.y, z := s.z, run := s.run, mem := s.mem, pr := s.pr, agenda := s.agenda } := by
  by_cases hc : s.stage = .interruptCheck
  · rw [cpuPulse_interruptCheck s hc]
    obtain h | ⟨d, q, item, rest, -, -, h⟩ := serviceInterrupt_cases s <;> rw [interruptCheckStage, h]
  · rw [cpuPulse_transport_frame s he hc]

/-- Outside `Execute1` only `Execute2` of `INC` writes `ACC` (R99). -/
theorem cpuPulse_acc (s : State) (he : s.stage ≠ .execute1)
    (h2 : ¬(s.stage = .execute2 ∧ s.ir = Opcode.incAbs.byte)) : (cpuPulse s).acc = s.acc := by
  cases hs : s.stage with
  | fetch => rw [cpuPulse_fetch s hs, fetchStage_acc]
  | decode1 =>
    rw [cpuPulse_decode1 s hs]
    obtain h | h | h := decode1Stage_cases s <;> rw [h] <;> rfl
  | decode2 => rw [cpuPulse_decode2 s hs, decodeHigh_acc]
  | execute1 => exact absurd hs he
  | execute2 => rw [cpuPulse_execute2 s hs, execute2Stage, if_neg fun hi => h2 ⟨hs, hi⟩, retire_acc]
  | writeBack => rw [cpuPulse_writeBack s hs]; rfl
  | interruptCheck => rw [cpuPulse_interruptCheck s hs, interruptCheckStage_acc]

/-! ### `RUN` -/

/-- `RUN` after any tick. -/
theorem tick_run (s : State) :
    (tick s).run = (s.run && !decide (s.stage = .execute1 ∧ s.ir = Opcode.brk.byte)) := by
  rw [tick_eq, memoryPulse_run]
  by_cases hs : s.stage = .execute1
  · simp [cpuPulse_execute1 s hs, execute1Stage_run, hs]
  · rw [cpuPulse_frame s hs]
    simp [hs]

/-- Settles O33: the writers of `RUN` are `BRK` among the opcodes and `Execute1` among the stages. -/
theorem onlyBrkClearsRunInATick : Obligations.OnlyBrkClearsRunInATick := tick_run

/-! ### `ACC`, `X` and `Y` -/

/-- Settles O34: outside `Execute1` by the frames of the stages, in `Execute1` by the writers among the opcodes. -/
theorem generalRegistersChangeOnlyByTheirWriters : Obligations.GeneralRegistersChangeOnlyByTheirWriters := by
  intro s
  rw [tick_eq, memoryPulse_acc, memoryPulse_x, memoryPulse_y]
  by_cases hs : s.stage = .execute1
  · rw [cpuPulse_execute1 s hs]
    exact ⟨fun h => .inl ⟨hs, exists_opcode_of_execute1_changes State.acc rfl (opcodeExecute1_acc s) h⟩,
      fun h => ⟨hs, exists_opcode_of_execute1_changes State.x rfl (opcodeExecute1_x s) h⟩,
      fun h => ⟨hs, exists_opcode_of_execute1_changes State.y rfl (opcodeExecute1_y s) h⟩⟩
  · have hframe := cpuPulse_frame s hs
    exact ⟨fun h => .inr (not_not.mp fun h2 => h (cpuPulse_acc s hs h2)),
      fun h => absurd (congrArg State.x hframe) h, fun h => absurd (congrArg State.y hframe) h⟩

/-! ### `PC` and `IR` -/

/-- `IR` after any tick (R19). -/
theorem tick_ir (s : State) : (tick s).ir = if s.stage = .fetch then s.mem.read s.pc else s.ir := by
  rw [tick_eq, memoryPulse_ir]
  cases hs : s.stage with
  | fetch => rw [cpuPulse_fetch s hs, fetchStage_ir, if_pos rfl]; rfl
  | decode1 =>
    rw [cpuPulse_decode1 s hs]
    obtain h | h | h := decode1Stage_cases s <;> rw [h] <;> rfl
  | decode2 => rw [cpuPulse_decode2 s hs, decodeHigh_ir]; rfl
  | execute1 => rw [cpuPulse_execute1 s hs, execute1Stage_ir]; rfl
  | execute2 =>
    rw [cpuPulse_execute2 s hs, execute2Stage]
    split <;> rfl
  | writeBack => rw [cpuPulse_writeBack s hs]; rfl
  | interruptCheck => rw [cpuPulse_interruptCheck s hs, interruptCheckStage_ir]; rfl

/-- Settles O35: `PC` stage by stage, `IR` by `tick_ir`. -/
theorem programCounterWriters : Obligations.ProgramCounterWriters := by
  intro s
  refine ⟨?_, tick_ir s⟩
  rw [tick_eq, memoryPulse_pc]
  cases hs : s.stage with
  | fetch => rw [cpuPulse_fetch s hs, fetchStage_pc]
  | decode1 => rw [cpuPulse_decode1 s hs, decode1Stage_pc]
  | decode2 => rw [cpuPulse_decode2 s hs, decodeHigh_pc]
  | execute1 => rw [cpuPulse_execute1 s hs, execute1Stage_pc]
  | execute2 =>
    rw [cpuPulse_execute2 s hs, execute2Stage]
    split <;> rfl
  | writeBack => rw [cpuPulse_writeBack s hs]; rfl
  | interruptCheck => rw [cpuPulse_interruptCheck s hs, interruptCheckStage_pc]

/-! ### Memory -/

/-- The CPU's pulse never writes a cell: only the Memory does (R62). -/
theorem cpuPulse_mem (s : State) : (cpuPulse s).mem = s.mem := by
  by_cases hs : s.stage = .execute1
  · rw [cpuPulse_execute1 s hs, execute1Stage_mem]
  · exact (congrArg State.mem (cpuPulse_frame s hs) :)

/-- The ticks that flag a write: `Execute1` of `STA` and `WriteBack` (R216). -/
abbrev FlagsWrite (s : State) : Prop :=
  (s.stage = .execute1 ∧ s.ir = Opcode.staAbs.byte) ∨ s.stage = .writeBack

/-- The two flagging stages do the same (R100, R137). -/
theorem cpuPulse_flagged (s : State) (h : FlagsWrite s) : cpuPulse s = writeBackStage s := by
  obtain ⟨hs, hi⟩ | hs := h
  · rw [cpuPulse_execute1 s hs, execute1Stage_recognized ((ofByte_ir s _).mpr hi)]
    rfl
  · rw [cpuPulse_writeBack s hs]

/-- A flagged write with the pulse that commits it: a store of `ACC` at `AR` (R100, R137). -/
theorem memoryPulse_writeBackStage (s : State) (h : Quiet s) :
    memoryPulse (writeBackStage s) =
      { s with dr := s.acc, mem := s.mem.write s.ar s.acc, stage := .interruptCheck } := by
  obtain ⟨hw, hr⟩ := h
  rw [memoryPulse_pending_write (writeBackStage s) rfl hr, ← hw]
  rfl

/-- No other tick flags a write. -/
theorem cpuPulse_pw (s : State) (h : ¬FlagsWrite s) : (cpuPulse s).pw = s.pw := by
  cases hs : s.stage with
  | fetch => rw [cpuPulse_fetch s hs, fetchStage_pw]
  | decode1 =>
    rw [cpuPulse_decode1 s hs]
    obtain h | h | h := decode1Stage_cases s <;> rw [h] <;> rfl
  | decode2 => rw [cpuPulse_decode2 s hs, decodeHigh_pw]
  | execute1 => rw [cpuPulse_execute1 s hs, execute1Stage_pw s fun hi => h (.inl ⟨hs, hi⟩)]
  | execute2 =>
    rw [cpuPulse_execute2 s hs, execute2Stage]
    split <;> rfl
  | writeBack => exact absurd (.inr hs) h
  | interruptCheck => rw [cpuPulse_interruptCheck s hs, interruptCheckStage_pw]

/-- A tick that flags a write, with nothing pending before it: the store, in that very tick (R216). -/
theorem tick_flagged (s : State) (hq : Quiet s) (h : FlagsWrite s) :
    tick s = { s with dr := s.acc, mem := s.mem.write s.ar s.acc, stage := .interruptCheck } := by
  rw [tick_eq, cpuPulse_flagged s h, memoryPulse_writeBackStage s hq]

/-- A tick that flags no write, with nothing pending before it, leaves memory alone. -/
theorem tick_mem_of_unflagged (s : State) (hq : Quiet s) (h : ¬FlagsWrite s) : (tick s).mem = s.mem := by
  have hw : (cpuPulse s).pw = false := (cpuPulse_pw s h).trans hq.1
  rw [tick_eq, memoryPulse, honourRead_mem, honourWrite_eq, hw, cpuPulse_mem]
  rfl

/-- Settles O36: the read-after-write law where the tick flags a write, and the same memory where it does not. -/
theorem memoryChangesOnlyByAFlaggedWrite : Obligations.MemoryChangesOnlyByAFlaggedWrite := by
  intro s hq hm a
  by_cases h : FlagsWrite s
  · rw [tick_flagged s hq h, Memory.read_write _ _ _ _ hm]
    simp only [show ((s.stage = .execute1 ∧ s.ir = Opcode.staAbs.byte) ∨ s.stage = .writeBack) from h, true_and]
  · rw [tick_mem_of_unflagged s hq h, if_neg fun ha => h ha.1]

/-! ### The output stream -/

/-- Servicing an interrupt emits at most one event (R187). -/
theorem serviceInterrupt_out (s : State) :
    (serviceInterrupt s).out = s.out ∨ ∃ e, (serviceInterrupt s).out = s.out ++ [e] := by
  obtain h | ⟨d, q, item, rest, -, -, h⟩ := serviceInterrupt_cases s
  · exact .inl (congrArg State.out h)
  · exact .inr ⟨_, congrArg State.out h⟩

/-- A tick keeps the output stream or appends one event to it (R30). -/
theorem tick_out (s : State) : (tick s).out = s.out ∨ ∃ e, (tick s).out = s.out ++ [e] := by
  rw [tick_eq, memoryPulse_out]
  by_cases he : s.stage = .execute1
  · rw [cpuPulse_execute1 s he]
    exact execute1Stage_out s
  · by_cases hc : s.stage = .interruptCheck
    · rw [cpuPulse_interruptCheck s hc, interruptCheckStage_out]
      exact serviceInterrupt_out s
    · exact .inl (congrArg State.out (cpuPulse_transport_frame s he hc) :)

/-- Settles O39: the output of each tick by `tick_out`; the environment's events do not touch it. -/
theorem outputIsAppendOnly : Obligations.OutputIsAppendOnly := by
  refine ⟨fun s => ?tick, fun d item s t h => ?post, terminateEvent_out⟩
  case tick =>
    obtain h | ⟨e, h⟩ := tick_out s
    · exact ⟨[], by simp, by simp [h]⟩
    · exact ⟨[e], le_rfl, h⟩
  case post =>
    obtain ⟨-, rfl⟩ := postEvent_next h
    rw [acceptInterrupt_out, bufferItem_out]

end Sys2Proof.Machine
end

section
/-! PROOFS. The meanings of the instructions (`41_moves_nop_halt.md` to `45_system_call.md`). The one idea: with nothing
pending the decode path of an instruction is one record update, `afterImplied`, `afterImmediate` or `afterAbsolute` but
for the stage, and the instruction's `Execute1` is another; the Memory's pulse after it is idle, or is the one store. -/

namespace Sys2Proof.Machine

/-! ### A decode path, then `Execute1` -/

theorem memoryPulse_eq_of_quiet {s t : State} (e : s = t) (ht : Quiet t) : memoryPulse s = t := by
  rw [e, memoryPulse_quiet t ht]

/-- A 1-byte instruction whose `Execute1` flags no access. -/
theorem pulse_after_impliedForm {execute1 : State → State} {op : Byte} {s t : State} (h : Quiet s)
    (he : execute1 { afterImplied op s with stage := .execute1 } = t) (ht : Quiet t) :
    memoryPulse (execute1 (impliedForm op s)) = t :=
  memoryPulse_eq_of_quiet ((congrArg execute1 (impliedForm_quiet op s h)).trans he) ht

/-- A 2-byte instruction whose `Execute1` flags no access. -/
theorem pulse_after_immediateForm {execute1 : State → State} {op operand : Byte} {s t : State} (h : Quiet s)
    (he : execute1 { afterImmediate op operand s with stage := .execute1 } = t) (ht : Quiet t) :
    memoryPulse (execute1 (immediateForm op operand s)) = t :=
  memoryPulse_eq_of_quiet ((congrArg execute1 (immediateForm_quiet op operand s h)).trans he) ht

/-- A 3-byte instruction whose `Execute1` flags no access. -/
theorem pulse_after_absoluteForm {execute1 : State → State} {op : Byte} {addr : Addr} {s t : State} (h : Quiet s)
    (he : execute1 { afterAbsolute op addr s with stage := .execute1 } = t) (ht : Quiet t) :
    memoryPulse (execute1 (absoluteForm op addr s)) = t :=
  memoryPulse_eq_of_quiet ((congrArg execute1 (absoluteForm_quiet op addr s h)).trans he) ht

/-! ### Moves, no-op and halt -/

/-- Settles O11: each move's `Execute1` after the 1-byte decode path. -/
theorem movesCopyOneRegister : Obligations.MovesCopyOneRegister := fun _ h =>
  ⟨congrArg _ (pulse_after_impliedForm h rfl h), congrArg _ (pulse_after_impliedForm h rfl h),
    congrArg _ (pulse_after_impliedForm h rfl h), congrArg _ (pulse_after_impliedForm h rfl h)⟩

/-- Settles O12: `Execute1` of `NOP` is the stage change alone. -/
theorem nopOnlyAdvances : Obligations.NopOnlyAdvances := fun _ h =>
  congrArg _ (pulse_after_impliedForm h rfl h)

theorem exec_brk (s : State) (h : Quiet s) :
    exec .brk s = .next { afterImplied Opcode.brk.byte s with run := false } :=
  congrArg _ (pulse_after_impliedForm h rfl h)

/-- Settles O13: `exec_brk` clears `RUN`, and then `step_stopped`. -/
theorem brkStopsTheClock : Obligations.BrkStopsTheClock := fun s h =>
  ⟨_, exec_brk s h, rfl, step_stopped _ rfl⟩

/-! ### Loads and the store -/

/-- Settles O14: each load's `Execute1` after the 2-byte decode path, which leaves the operand in `DR`. -/
theorem loadImmediateSetsItsRegister : Obligations.LoadImmediateSetsItsRegister := fun _ _ h =>
  ⟨congrArg _ (pulse_after_immediateForm h rfl h), congrArg _ (pulse_after_immediateForm h rfl h),
    congrArg _ (pulse_after_immediateForm h rfl h)⟩

/-- Settles O15: each load's `Execute1` after the 3-byte decode path, which leaves the cell in `DR`. -/
theorem loadAbsoluteReadsTheCell : Obligations.LoadAbsoluteReadsTheCell := fun _ _ h =>
  ⟨congrArg _ (pulse_after_absoluteForm h rfl h), congrArg _ (pulse_after_absoluteForm h rfl h),
    congrArg _ (pulse_after_absoluteForm h rfl h)⟩

theorem exec_staAbs (addr : Addr) (s : State) (h : Quiet s) :
    exec (.staAbs addr) s =
      .next { afterAbsolute Opcode.staAbs.byte addr s with dr := s.acc, mem := s.mem.write addr s.acc } := by
  show Host.Outcome.next (memoryPulse (writeBackStage (absoluteForm _ addr s))) = _
  rw [absoluteForm_quiet _ _ _ h, memoryPulse_writeBackStage]
  · rfl
  · exact h

/-- Settles O16: `exec_staAbs`, and the read-after-write law. -/
theorem staStoresTheAccumulator : Obligations.StaStoresTheAccumulator := fun addr s h hm =>
  ⟨_, exec_staAbs addr s h, rfl, Memory.read_write_same _ _ _ hm, fun _ => Memory.read_write_other _ _ _ _ hm,
    Memory.wf_write _ _ _ hm⟩

/-! ### The branch -/

/-- The magnitude in closed form: complementing a byte subtracts it from 255 (R141). -/
theorem twosComplementMagnitude_eq (b : Byte) : twosComplementMagnitude b = 256 - b.toNat := by
  have hxor : b ^^^ 0xFF#8 = ~~~b := BitVec.xor_allOnes
  have := b.isLt
  rw [twosComplementMagnitude, hxor, BitVec.toNat_not]
  omega

/-- The branch target in closed form (R140, R141). -/
theorem branchTarget_eq (pc : Addr) (rel : Byte) : branchTarget pc rel = pc - BitVec.ofNat 16 (256 - rel.toNat) := by
  rw [branchTarget, twosComplementMagnitude_eq]

/-- Settles O17: `Execute1` of `BNE` after the 2-byte decode path. -/
theorem bneBranchesBackward : Obligations.BneBranchesBackward := by
  intro rel s h
  refine congrArg Host.Outcome.next (pulse_after_immediateForm h ?_ h)
  rw [← branchTarget_eq]
  rfl

/-- The branch target as a sum: the byte is added and 256 taken off (R142). -/
theorem branchTarget_eq_add (pc : Addr) (rel : Byte) : branchTarget pc rel = pc + rel.setWidth 16 - 256#16 := by
  have := rel.isLt
  rw [branchTarget_eq]
  apply BitVec.eq_of_toNat_eq
  simp only [BitVec.toNat_sub, BitVec.toNat_add, BitVec.toNat_setWidth, BitVec.toNat_ofNat]
  omega

/-- From 0x80 up taking 256 off is what the sign extension does (R142). -/
theorem branchTarget_eq_signed (pc : Addr) (rel : Byte) (h : 0x80#8 ≤ rel) :
    branchTarget pc rel = pc + rel.signExtend 16 := by
  have hneg : rel.msb = true := by
    rw [BitVec.msb_eq_decide]
    simpa [BitVec.le_def] using h
  have := rel.isLt
  rw [branchTarget_eq_add]
  apply BitVec.eq_of_toNat_eq
  simp only [BitVec.toNat_sub, BitVec.toNat_add, BitVec.toNat_signExtend, hneg, if_true, BitVec.toNat_setWidth,
    BitVec.toNat_ofNat]
  omega

/-- Settles O26: the closed form of the magnitude, and the two sums. -/
theorem branchDisplacementLaw : Obligations.BranchDisplacementLaw := by
  refine ⟨fun b => ?_, fun a rel => branchTarget_eq_add _ rel, fun a rel h => branchTarget_eq_signed _ rel h⟩
  have := b.isLt
  rw [twosComplementMagnitude_eq]
  omega

/-! ### Arithmetic and comparison -/

/-- `Execute1` of `ADC`, after the 3-byte decode path (R150). -/
theorem exec_adcAbs (addr : Addr) (s : State) (h : Quiet s) :
    exec (.adcAbs addr) s =
      .next { afterAbsolute Opcode.adcAbs.byte addr s with acc := s.acc + s.mem.read addr } :=
  congrArg _ (pulse_after_absoluteForm h rfl h)

/-- Settles O18: `exec_adcAbs`; a sum of bytes is taken modulo 256. -/
theorem adcAddsWithoutCarry : Obligations.AdcAddsWithoutCarry := fun addr s h =>
  ⟨_, exec_adcAbs addr s h, rfl, BitVec.toNat_add s.acc _⟩

/-- `Execute1` of `CPX`, after the 3-byte decode path (R151). -/
theorem exec_cpxAbs (addr : Addr) (s : State) (h : Quiet s) :
    exec (.cpxAbs addr) s =
      .next { afterAbsolute Opcode.cpxAbs.byte addr s with z := s.z || s.mem.read addr == s.x } :=
  congrArg _ (pulse_after_absoluteForm h rfl h)

/-- Settles O19: the latch, on equality and otherwise. -/
theorem cpxLatchesZeroOnEquality : Obligations.CpxLatchesZeroOnEquality := by
  intro addr s h
  rw [exec_cpxAbs addr s h]
  by_cases heq : s.mem.read addr = s.x <;> simp [heq]

/-- `Execute2` of `INC` (R99). -/
theorem execute2Stage_incAbs {s : State} {opc : OpcodeTable} (hi : s.ir = Opcode.incAbs.byte opc) :
    execute2Stage s opc = { s with acc := s.acc + 1#8, stage := .writeBack } :=
  if_pos hi

/-- `Execute2` of any other byte (R99). -/
theorem execute2Stage_other {s : State} {opc : OpcodeTable} (hi : s.ir ≠ Opcode.incAbs.byte opc) :
    execute2Stage s opc = retire s :=
  if_neg hi

/-- `INC`: its three stages after the decode path, of which the last stores (R153). -/
theorem exec_incAbs (addr : Addr) (s : State) (h : Quiet s) :
    exec (.incAbs addr) s =
      .next { afterAbsolute Opcode.incAbs.byte addr s with
        acc := s.mem.read addr + 1#8, dr := s.mem.read addr + 1#8
        mem := s.mem.write addr (s.mem.read addr + 1#8) } := by
  show Host.Outcome.next (memoryPulse (writeBackStage (memoryPulse (execute2Stage
    (memoryPulse (incAbsExecute1 (absoluteForm Opcode.incAbs.byte addr s))))))) = _
  have hload : memoryPulse (incAbsExecute1 (absoluteForm Opcode.incAbs.byte addr s)) =
      { afterAbsolute Opcode.incAbs.byte addr s with acc := s.mem.read addr, stage := .execute2 } :=
    pulse_after_absoluteForm h rfl h
  have hadd : memoryPulse (execute2Stage
      { afterAbsolute Opcode.incAbs.byte addr s with acc := s.mem.read addr, stage := .execute2 }) =
      { afterAbsolute Opcode.incAbs.byte addr s with acc := s.mem.read addr + 1#8, stage := .writeBack } :=
    memoryPulse_eq_of_quiet (execute2Stage_incAbs rfl) h
  rw [hload, hadd, memoryPulse_writeBackStage]
  · rfl
  · exact h

/-- Settles O20: `exec_incAbs`, and the read-after-write law. -/
theorem incUpdatesCellAndAccumulator : Obligations.IncUpdatesCellAndAccumulator := fun addr s h hm =>
  ⟨_, exec_incAbs addr s h, rfl, BitVec.toNat_add _ 1#8, Memory.read_write_same _ _ _ hm,
    fun _ => Memory.read_write_other _ _ _ _ hm, Memory.wf_write _ _ _ hm⟩

/-! ### The system call -/

theorem sysExecute1_integer (s : State) (hx : s.x = 1#8) : sysExecute1 s = retire (emit (.outInt s.y.toNat) s) := by
  rw [sysExecute1, if_pos hx]

theorem sysExecute1_string (s : State) (hx : s.x = 3#8) : sysExecute1 s = streamTick s := by
  rw [sysExecute1, if_neg (by simp [hx]), if_pos hx]

theorem sysExecute1_other (s : State) (h1 : s.x ≠ 1#8) (h3 : s.x ≠ 3#8) : sysExecute1 s = retire s := by
  rw [sysExecute1, if_neg h1, if_neg h3]

/-- A string tick at a zero cell ends the instruction (R163). -/
theorem streamTick_end (s : State) (h : s.mem.read s.ar = 0#8) :
    streamTick s = { s with dr := 0#8, stage := .interruptCheck } := by
  rw [streamTick, streamByte, if_pos (show (readNow s).dr = 0#8 from h), ← h]
  rfl

/-- A string tick at any other cell emits it and moves on (R163). -/
theorem streamTick_byte (s : State) (h : s.mem.read s.ar ≠ 0#8) :
    streamTick s = { s with
      dr := s.mem.read s.ar, ar := s.ar + 1#16, stage := .execute1, out := s.out ++ [.outChar (s.mem.read s.ar)] } := by
  rw [streamTick, streamByte, if_neg (show (readNow s).dr ≠ 0#8 from h)]
  rfl

/-- `SYS` where `X` is not 1 consumes its address (R73, R160). -/
theorem exec_sys_address {operand : Option Addr} {s t : State} (h : Quiet s) (hx : s.x ≠ 1#8)
    (he : sysExecute1 { afterAbsolute Opcode.sys.byte (sysAddress operand s) s with stage := .execute1 } = t)
    (ht : Quiet t) : exec (.sys operand) s = .next t := by
  show Host.Outcome.next (memoryPulse (sysExecute1 (if _ then _ else _))) = _
  rw [if_neg hx, pulse_after_absoluteForm h he ht]

/-- Settles O21: the integer sub-mode after the 1-byte decode path. -/
theorem sysPrintsYAsAnInteger : Obligations.SysPrintsYAsAnInteger := by
  intro operand s h hx
  show Host.Outcome.next (memoryPulse (sysExecute1 (if _ then _ else _))) = _
  rw [if_pos hx, pulse_after_impliedForm h (sysExecute1_integer _ hx) h]
  rfl

/-- Settles O22: no sub-mode, after the 3-byte decode path. -/
theorem sysOtherModesDoNothing : Obligations.SysOtherModesDoNothing := fun _ _ h h1 h3 =>
  exec_sys_address h h1 (sysExecute1_other _ h1 h3) h

/-- Settles O23: the string sub-mode after the 3-byte decode path, by the cell at the address. -/
theorem sysStartsTheString : Obligations.SysStartsTheString := by
  intro operand addr s h hx haddr
  subst haddr
  have hx1 : s.x ≠ 1#8 := by simp [hx]
  refine ⟨fun hz => exec_sys_address h hx1 ?_ h, fun hz => exec_sys_address h hx1 ?_ h⟩
  · rw [sysExecute1_string, streamTick_end, ← hz]
    · rfl
    · exact hz
    · exact hx
  · rw [sysExecute1_string, streamTick_byte]
    · rfl
    · exact hz
    · exact hx

end Sys2Proof.Machine
end

section
/-! PROOFS. Reset, the program load and the immediate accesses (`20_memory.md` R47, R56, `70_reset_and_hazards.md` R200,
R204). The one idea: the load is an induction on the image in which an address is told from those loaded after it by its
offset, so that the read-after-write law applies at every byte. -/

namespace Sys2Proof.Machine

/-! ### Immediate accesses and reset -/

/-- Settles O9: the three operations are their record updates, the read after `writeImmediate` the law of `write()`. -/
theorem immediateAccessesActAtOnce : Obligations.ImmediateAccessesActAtOnce :=
  ⟨fun _ _ => ⟨rfl, rfl⟩, fun a b s h => ⟨_, rfl, rfl, writeNow_mem_read (setData b (setAddress a s)) h⟩, fun _ => rfl⟩

theorem bufOf_keyboardDevice (d : Nat) : bufOf [keyboardDevice] d = [] := by
  cases d <;> rfl

/-- Settles O53: the fields of `State.reset`, and the one device's buffer. -/
theorem resetValues : Obligations.ResetValues :=
  ⟨fun _ => rfl, rfl, rfl, rfl, rfl, rfl, rfl, rfl, rfl, rfl, rfl, rfl, rfl, rfl, rfl, rfl, rfl, rfl, rfl,
    bufOf_keyboardDevice⟩

/-! ### The program load -/

/-- Offsets below 65536 tell addresses apart. -/
theorem offset_ne_zero {i : Nat} (hi : i + 1 < 65536) (a : Addr) : a ≠ a + 1#16 + BitVec.ofNat 16 i := by
  have := a.isLt
  rw [ne_eq, BitVec.toNat_eq]
  simp only [BitVec.toNat_add, BitVec.toNat_ofNat]
  omega

/-- The next offset is the same offset of the next address. -/
theorem add_ofNat_succ (a : Addr) (i : Nat) : a + BitVec.ofNat 16 (i + 1) = a + 1#16 + BitVec.ofNat 16 i := by
  rw [BitVec.add_assoc, ← BitVec.ofNat_add, Nat.add_comm i 1]

/-- A load leaves every cell at none of its offsets. -/
theorem read_flashBytes_other (bytes : List Byte) (a c : Addr) (s : State) (hm : s.mem.wf = true)
    (hc : ∀ i < bytes.length, c ≠ a + BitVec.ofNat 16 i) : (flashBytes a bytes s).mem.read c = s.mem.read c := by
  induction bytes generalizing a s with
  | nil => rfl
  | cons b rest ih =>
    have hhead : c ≠ a := by simpa using hc 0 (Nat.succ_pos _)
    have htail : ∀ i < rest.length, c ≠ a + 1#16 + BitVec.ofNat 16 i := fun i hi =>
      add_ofNat_succ a i ▸ hc (i + 1) (Nat.succ_lt_succ hi)
    rw [flashBytes, ih _ _ (wf_writeImmediate a b s hm) htail]
    exact Memory.read_write_other _ _ _ _ hm hhead

/-- A load that does not go round the address space leaves each byte at its offset. -/
theorem read_flashBytes (bytes : List Byte) (a : Addr) (s : State) (hm : s.mem.wf = true)
    (hlen : bytes.length ≤ 65536) (i : Nat) (hi : i < bytes.length) :
    (flashBytes a bytes s).mem.read (a + BitVec.ofNat 16 i) = bytes[i] := by
  induction bytes generalizing a s i with
  | nil => exact absurd hi (Nat.not_lt_zero i)
  | cons b rest ih =>
    rw [List.length_cons] at hlen hi
    have hm' := wf_writeImmediate a b s hm
    cases i with
    | zero =>
      have hlater : ∀ j < rest.length, a ≠ a + 1#16 + BitVec.ofNat 16 j := fun j hj => offset_ne_zero (by omega) a
      rw [flashBytes, BitVec.add_zero, read_flashBytes_other rest _ a _ hm' hlater]
      exact Memory.read_write_same _ _ _ hm
    | succ j =>
      rw [flashBytes, add_ofNat_succ a j]
      exact ih _ _ hm' (by omega) j (by omega)

/-- Settles O10: each byte by `read_flashBytes`, every other cell by `read_flashBytes_other`. -/
theorem flashStoresTheImage : Obligations.FlashStoresTheImage := by
  refine ⟨fun _ _ => rfl, fun start bytes s hm => ⟨fun hfit => ?fits, fun hbig => ?refused⟩⟩
  case fits =>
    refine ⟨_, if_pos hfit, fun i hi => ?_, fun a ha => ?_, flashBytes_frame start bytes s⟩
    · rw [BitVec.ofNat_add, BitVec.ofNat_toNat, BitVec.setWidth_eq]
      exact read_flashBytes bytes start s hm (by omega) i hi
    · refine read_flashBytes_other bytes start a s hm fun i hi => ?_
      rw [ne_eq, BitVec.toNat_eq, BitVec.toNat_add, BitVec.toNat_ofNat]
      omega
  case refused => exact if_neg (Nat.not_le_of_lt hbig)

/-! ### Termination -/

/-- Settles O44: the event clears `RUN`, and a stopped Clock makes no move and no step. -/
theorem terminateStopsAtOnce : Obligations.TerminateStopsAtOnce :=
  ⟨fun _ => rfl, perform_terminate, fun _ e => perform_stopped _ e rfl, fun _ => step_stopped _ rfl,
    fun _ => if_pos rfl, fun _ _ hb => if_neg hb⟩

end Sys2Proof.Machine
end

section
/-! PROOFS. The stages, each with all it writes (`40_pipeline.md` sections 2 to 5, `60_exceptions.md` R170 to R176, R187).
The one idea: a stage that flags no access leaves nothing to the Memory's pulse, so the tick is the stage's own update. -/

namespace Sys2Proof.Machine

/-- A tick whose stage flags no access is that stage. -/
theorem tick_eq_of_quiet {s t : State} {opc : OpcodeTable} (h : cpuPulse s opc = t) (ht : Quiet t) : tick s opc = t :=
  memoryPulse_eq_of_quiet h ht

/-! ### `Fetch`, `Decode1` and `Decode2` -/

theorem decode1Stage_no_operand {s : State} {opc : OpcodeTable}
    (hc : operandCount s.ir opc = none ∨ operandCount s.ir opc = some 0) : decode1Stage s opc = decodeNone s := by
  obtain hc | hc := hc <;> simp only [decode1Stage, hc]

theorem decode1Stage_one_operand {s : State} {opc : OpcodeTable} (hc : operandCount s.ir opc = some 1) :
    decode1Stage s opc = decodeOne (byteAtPc s) s := by
  simp only [decode1Stage, hc]

theorem decode1Stage_two_operands {s : State} {opc : OpcodeTable} (hc : operandCount s.ir opc = some 2) :
    decode1Stage s opc =
      if s.ir = Opcode.sys.byte opc ∧ s.x = 1#8 then decodeNone s else decodeLow (byteAtPc s) s := by
  simp only [decode1Stage, hc]

/-- Settles O27: the stages' own updates, `Decode1` by the operand count and the override of `SYS`. -/
theorem fetchAndDecodeStages : Obligations.FetchAndDecodeStages := by
  intro s h
  refine ⟨fun hs => ?fetch, fun hs hc => ?none, fun hs hc => ?one, fun hs hi hx => ?sys, fun hs hc hx => ?low,
    fun hs => ?high⟩
  case fetch => exact tick_eq_of_quiet (cpuPulse_fetch s hs) h
  case none => exact tick_eq_of_quiet ((cpuPulse_decode1 s hs).trans (decode1Stage_no_operand hc)) h
  case one => exact tick_eq_of_quiet ((cpuPulse_decode1 s hs).trans (decode1Stage_one_operand hc)) h
  case sys =>
    have hc : operandCount s.ir = some 2 := hi ▸ operandCount_byte .sys
    refine tick_eq_of_quiet ?_ h
    rw [cpuPulse_decode1 s hs, decode1Stage_two_operands hc, if_pos ⟨hi, hx⟩]
    rfl
  case low =>
    refine tick_eq_of_quiet ?_ h
    rw [cpuPulse_decode1 s hs, decode1Stage_two_operands hc, if_neg hx]
    rfl
  case high => exact tick_eq_of_quiet (cpuPulse_decode2 s hs) h

/-! ### `Execute2` and `WriteBack` -/

/-- Settles O28: `Execute2` of `INC`, and the store of a flagged write. -/
theorem incrementStages : Obligations.IncrementStages := fun s h =>
  ⟨fun hs hi => tick_eq_of_quiet ((cpuPulse_execute2 s hs).trans (execute2Stage_incAbs hi)) h,
    fun hs => tick_flagged s h (.inr hs)⟩

/-! ### `InterruptCheck` -/

theorem tick_interruptCheck_quiet (s : State) (h : Quiet s) (hs : s.stage = .interruptCheck) :
    tick s = interruptCheckStage s :=
  tick_eq_of_quiet (cpuPulse_interruptCheck s hs) (by simpa [Quiet] using h)

/-- Settles O30: `serviceInterrupt` by the queue and by the head device's buffer. -/
theorem interruptCheckEmitsOneItem : Obligations.InterruptCheckEmitsOneItem := by
  intro s h hs
  rw [tick_interruptCheck_quiet s h hs]
  refine ⟨fun hq => ?empty, fun d q hq hb => ?unbuffered, fun d q item rest hq hb => ?item⟩
  case empty => simp only [interruptCheckStage, serviceInterrupt, highestPriority, hq, List.head?_nil]
  case unbuffered => simp only [interruptCheckStage, serviceInterrupt, highestPriority, hq, List.head?_cons, hb]
  case item =>
    simp only [interruptCheckStage, serviceInterrupt, highestPriority, hq, List.head?_cons, hb]
    rfl

/-! ### The conditions an `Execute1` raises -/

theorem raisedCondition_unrecognized {s : State} (h : Opcode.ofByte s.ir = none) :
    raisedCondition s = some .decodeFault := by
  rw [raisedCondition, h]

/-- Of the opcodes `BRK` raises, and `SYS` at `X = 2` (R164, R174). -/
theorem raisedCondition_recognized {s : State} {o : Opcode} (h : Opcode.ofByte s.ir = some o) :
    raisedCondition s =
      if o = .brk then some .halt else if o = .sys ∧ s.x = 2#8 then some .unimplementedMode else none := by
  rw [raisedCondition, h]
  cases o <;> simp

/-- The tick `Execute1` of a byte that is no opcode, under any table (R166). -/
theorem tick_execute1_unrecognized {s : State} {opc : OpcodeTable} (h : Quiet s) (hs : s.stage = .execute1)
    (hi : Opcode.ofByte s.ir opc = none) :
    tick s opc = { s with out := s.out ++ [.diag .decodeFault s.ir], stage := .interruptCheck } :=
  tick_eq_of_quiet ((cpuPulse_execute1 s hs).trans (execute1Stage_unrecognized hi)) h

/-- The tick `Execute1` of an opcode whose update flags no access. -/
theorem tick_execute1_recognized {s t : State} {o : Opcode} (hs : s.stage = .execute1) (hi : s.ir = o.byte)
    (ht : opcodeExecute1 o s = t) (hq : Quiet t) : tick s = t :=
  tick_eq_of_quiet ((cpuPulse_execute1 s hs).trans ((execute1Stage_recognized ((ofByte_ir s o).mpr hi)).trans ht)) hq

/-- The condition raised, by the byte in `IR`. -/
theorem raisedCondition_eq (s : State) :
    (raisedCondition s = some .decodeFault ↔ Opcode.ofByte s.ir = none) ∧
    (raisedCondition s = some .unimplementedMode ↔ Opcode.ofByte s.ir = some .sys ∧ s.x = 2#8) ∧
    (raisedCondition s = some .halt ↔ Opcode.ofByte s.ir = some .brk) ∧
    raisedCondition s ≠ some .outOfRange := by
  cases h : Opcode.ofByte s.ir with
  | none => simp [raisedCondition_unrecognized h]
  | some o =>
    rw [raisedCondition_recognized h]
    by_cases hb : o = .brk
    · simp [hb]
    · by_cases hsys : o = .sys ∧ s.x = 2#8
      · simp [hsys]
      · simp [hb, hsys]

/-- Settles O31: the condition by the byte in `IR`, and the tick of each of the three. -/
theorem raisedConditionsAndTheirEffects : Obligations.RaisedConditionsAndTheirEffects := by
  intro s h hs
  obtain ⟨hfault, hmode, hhalt, hrange⟩ := raisedCondition_eq s
  simp only [ofByte_ir] at hmode hhalt
  refine ⟨hfault.trans Opcode.ofByte_eq_none, fun hr => ?fault, hmode, fun hr => ?mode, hhalt, fun hr => ?halt, hrange⟩
  case fault => exact tick_execute1_unrecognized h hs (hfault.mp hr)
  case mode =>
    obtain ⟨hi, hx⟩ := hmode.mp hr
    exact tick_execute1_recognized hs hi (sysExecute1_other s (by simp [hx]) (by simp [hx])) h
  case halt => exact tick_execute1_recognized hs (hhalt.mp hr) rfl h

end Sys2Proof.Machine
end

section
/-! PROOFS. What a tick does not read (`10_state.md` R26, `60_exceptions.md` R186, R188, `30_encoding.md` R77). The one
idea: `IR`'s spelling of an opcode, `LO` and `HI`, the interrupt side, the output so far and the agenda are carried through
a tick by every stage that does not read them; so one lemma says for all these fields at once that changing them before
the tick is changing them after it. -/

namespace Sys2Proof.Machine

/-! ### Side changes -/

/-- A change of fields that `Execute1` of an opcode does not read: a new value for some of them, and a beginning for the
output stream. -/
structure SideChange where
  ir : Option Byte := none
  lo : Option Byte := none
  hi : Option Byte := none
  devices : Option (List Device) := none
  iq : Option (List Nat) := none
  earlier : List OutEvent := []
  agenda : Option (List Event) := none

/-- The state with the change made. -/
def SideChange.apply (c : SideChange) (s : State) : State :=
  { s with
    ir := c.ir.getD s.ir, lo := c.lo.getD s.lo, hi := c.hi.getD s.hi, devices := c.devices.getD s.devices,
    iq := c.iq.getD s.iq, out := c.earlier ++ s.out, agenda := c.agenda.getD s.agenda }

theorem memoryPulse_apply (c : SideChange) (s : State) : memoryPulse (c.apply s) = c.apply (memoryPulse s) := by
  simp only [memoryPulse, honourRead_eq, honourWrite_eq]
  rfl

theorem emit_apply (c : SideChange) (e : OutEvent) (s : State) : emit e (c.apply s) = c.apply (emit e s) := by
  simp only [emit, SideChange.apply, List.append_assoc]

theorem streamTick_apply (c : SideChange) (s : State) : streamTick (c.apply s) = c.apply (streamTick s) := by
  by_cases hend : s.mem.read s.ar = 0#8
  · rw [streamTick_end s hend, streamTick_end (c.apply s) hend]
    rfl
  · rw [streamTick_byte s hend, streamTick_byte (c.apply s) hend]
    simp only [SideChange.apply, List.append_assoc]

theorem sysExecute1_apply (c : SideChange) (s : State) : sysExecute1 (c.apply s) = c.apply (sysExecute1 s) := by
  by_cases hint : s.x = 1#8
  · rw [sysExecute1_integer s hint, sysExecute1_integer (c.apply s) hint]
    exact congrArg retire (emit_apply c _ s)
  · by_cases hstr : s.x = 3#8
    · rw [sysExecute1_string s hstr, sysExecute1_string (c.apply s) hstr, streamTick_apply]
    · rw [sysExecute1_other s hint hstr, sysExecute1_other (c.apply s) hint hstr]
      rfl

/-- No opcode's update reads a field of a side change. -/
theorem opcodeExecute1_apply (c : SideChange) (o : Opcode) (s : State) :
    opcodeExecute1 o (c.apply s) = c.apply (opcodeExecute1 o s) := by
  cases o
  case sys => exact sysExecute1_apply c s
  all_goals rfl

theorem SideChange.apply_ir (c : SideChange) (hir : c.ir = none) (s : State) : (c.apply s).ir = s.ir := by
  rw [SideChange.apply, hir]
  rfl

/-- `Execute1` of a byte reads of these fields `IR` alone. -/
theorem execute1Stage_apply (c : SideChange) (hir : c.ir = none) (s : State) (opc : OpcodeTable) :
    execute1Stage (c.apply s) opc = c.apply (execute1Stage s opc) := by
  have hsame := c.apply_ir hir s
  cases h : Opcode.ofByte s.ir opc with
  | none =>
    rw [execute1Stage_unrecognized h, execute1Stage_unrecognized (hsame ▸ h), unrecognizedExecute1, raiseDecodeFault,
      hsame, emit_apply]
    rfl
  | some o => rw [execute1Stage_recognized h, execute1Stage_recognized (hsame ▸ h), opcodeExecute1_apply]

theorem execute2Stage_apply (c : SideChange) (hir : c.ir = none) (s : State) (opc : OpcodeTable) :
    execute2Stage (c.apply s) opc = c.apply (execute2Stage s opc) := by
  have hsame := c.apply_ir hir s
  by_cases hinc : s.ir = Opcode.incAbs.byte opc
  · rw [execute2Stage_incAbs hinc, execute2Stage_incAbs (hsame ▸ hinc)]
    rfl
  · rw [execute2Stage_other hinc, execute2Stage_other (hsame ▸ hinc)]
    rfl

/-- Two states whose opcodes have the same operand count, and the override of `SYS` alike, go the same way through
`Decode1`: what relates the results of each way relates the results of the stage. -/
theorem decode1Stage_congr {R : State → State → Prop} {s t : State} {opc opc' : OpcodeTable}
    (hc : operandCount t.ir opc' = operandCount s.ir opc)
    (hsys : (t.ir = Opcode.sys.byte opc' ∧ t.x = 1#8) ↔ (s.ir = Opcode.sys.byte opc ∧ s.x = 1#8))
    (hnone : R (decodeNone t) (decodeNone s)) (hone : R (decodeOne (byteAtPc t) t) (decodeOne (byteAtPc s) s))
    (hlow : R (decodeLow (byteAtPc t) t) (decodeLow (byteAtPc s) s)) :
    R (decode1Stage t opc') (decode1Stage s opc) := by
  cases hn : operandCount s.ir opc with
  | none => simpa only [decode1Stage, hc, hn] using hnone
  | some n =>
    match n, hn with
    | 0, hn => simpa only [decode1Stage, hc, hn] using hnone
    | 1, hn => simpa only [decode1Stage, hc, hn] using hone
    | n + 2, hn =>
      simp only [decode1Stage, hc, hn, hsys]
      split
      · exact hnone
      · exact hlow

theorem serviceInterrupt_apply (c : SideChange) (hd : c.devices = none) (hq : c.iq = none) (s : State) :
    serviceInterrupt (c.apply s) = c.apply (serviceInterrupt s) := by
  obtain ⟨ir, lo, hi, devices, iq, earlier, agenda⟩ := c
  cases hd
  cases hq
  cases hhead : s.iq.head? with
  | none => simp only [serviceInterrupt, highestPriority, SideChange.apply, Option.getD_none, hhead]
  | some d =>
    cases hb : bufOf s.devices d with
    | nil => simp only [serviceInterrupt, highestPriority, SideChange.apply, Option.getD_none, hhead, hb]
    | cons item rest =>
      simp only [serviceInterrupt, highestPriority, SideChange.apply, Option.getD_none, hhead, hb, clearOutputBuffer,
        emit, List.append_assoc]

/-- `InterruptCheck` reads of these fields the interrupt side alone. -/
theorem interruptCheckStage_apply (c : SideChange) (hd : c.devices = none) (hq : c.iq = none) (s : State) :
    interruptCheckStage (c.apply s) = c.apply (interruptCheckStage s) := by
  rw [interruptCheckStage, serviceInterrupt_apply c hd hq]
  rfl

/-- A side change commutes with every tick that neither reads nor writes what it changes: `IR` is read by the stages that
look at the opcode and written by `Fetch`, the address bytes are touched by the two decode stages, the interrupt side by
`InterruptCheck`. -/
theorem tick_apply (c : SideChange) (s : State) (opc : OpcodeTable) (hir : c.ir = none)
    (hbytes : s.stage = .decode1 ∨ s.stage = .decode2 → c.lo = none ∧ c.hi = none)
    (hside : s.stage = .interruptCheck → c.devices = none ∧ c.iq = none) :
    tick (c.apply s) opc = c.apply (tick s opc) := by
  suffices hcpu : cpuPulse (c.apply s) opc = c.apply (cpuPulse s opc) by
    rw [tick_eq, tick_eq, hcpu, memoryPulse_apply]
  obtain ⟨ir, lo, hi, devices, iq, earlier, agenda⟩ := c
  cases hir
  cases hs : s.stage with
  | fetch =>
    rw [cpuPulse_fetch s hs, cpuPulse_fetch (SideChange.apply _ s) hs]
    rfl
  | decode1 =>
    obtain ⟨rfl, rfl⟩ := hbytes (.inl hs)
    rw [cpuPulse_decode1 s hs, cpuPulse_decode1 (SideChange.apply _ s) hs]
    exact decode1Stage_congr (R := fun t u => t = SideChange.apply _ u) rfl Iff.rfl rfl rfl rfl
  | decode2 =>
    obtain ⟨rfl, rfl⟩ := hbytes (.inr hs)
    rw [cpuPulse_decode2 s hs, cpuPulse_decode2 (SideChange.apply _ s) hs]
    rfl
  | execute1 =>
    rw [cpuPulse_execute1 s hs, cpuPulse_execute1 (SideChange.apply _ s) hs]
    exact execute1Stage_apply _ rfl s opc
  | execute2 =>
    rw [cpuPulse_execute2 s hs, cpuPulse_execute2 (SideChange.apply _ s) hs]
    exact execute2Stage_apply _ rfl s opc
  | writeBack =>
    rw [cpuPulse_writeBack s hs, cpuPulse_writeBack (SideChange.apply _ s) hs]
    rfl
  | interruptCheck =>
    obtain ⟨rfl, rfl⟩ := hside hs
    rw [cpuPulse_interruptCheck s hs, cpuPulse_interruptCheck (SideChange.apply _ s) hs]
    exact interruptCheckStage_apply _ rfl rfl s

/-! ### `LO` and `HI` -/

/-- Other values of `LO` and `HI`. -/
def addressBytes (l h : Byte) : SideChange := { lo := some l, hi := some h }

/-- `Decode1` may overwrite `LO`: it carries other address bytes through but for that. -/
theorem decode1Stage_addressBytes (l h : Byte) (s : State) :
    (addressBytes 0#8 0#8).apply (decode1Stage ((addressBytes l h).apply s)) =
      (addressBytes 0#8 0#8).apply (decode1Stage s) :=
  decode1Stage_congr (R := fun t u => (addressBytes 0#8 0#8).apply t = (addressBytes 0#8 0#8).apply u) rfl Iff.rfl rfl
    rfl rfl

/-- Settles O38: every stage but the two that write them carries `LO` and `HI` through; of these `Decode1` does not read
them. -/
theorem addressBytesAreReadOnlyInDecode2 : Obligations.AddressBytesAreReadOnlyInDecode2 := by
  intro s l h hs
  show (addressBytes 0#8 0#8).apply (tick ((addressBytes l h).apply s)) = (addressBytes 0#8 0#8).apply (tick s)
  by_cases h1 : s.stage = .decode1
  · rw [tick_eq, tick_eq, ← memoryPulse_apply, ← memoryPulse_apply, cpuPulse_decode1 s h1,
      cpuPulse_decode1 (SideChange.apply _ s) h1, decode1Stage_addressBytes]
  · rw [tick_apply (addressBytes l h) s _ rfl (fun hd => absurd hd (by simp [h1, hs])) fun _ => ⟨rfl, rfl⟩]
    rfl

/-! ### The interrupt side -/

/-- A tick other than `InterruptCheck` carries any devices and any queue through. -/
theorem tick_with_interrupts (s : State) (ds : List Device) (q : List Nat) (hs : s.stage ≠ .interruptCheck) :
    tick { s with devices := ds, iq := q } = { tick s with devices := ds, iq := q } :=
  tick_apply { devices := some ds, iq := some q } s _ rfl (fun _ => ⟨rfl, rfl⟩) fun h => absurd h hs

/-- So such a tick leaves the devices and the queue as they are. -/
theorem tick_interrupts (s : State) (hs : s.stage ≠ .interruptCheck) :
    (tick s).devices = s.devices ∧ (tick s).iq = s.iq := by
  have h := tick_with_interrupts s s.devices s.iq hs
  exact ⟨(congrArg State.devices h :), (congrArg State.iq h :)⟩

theorem performAll_cons {e : Event} {es : List Event} {s t : State} (h : perform e s = .next t) :
    performAll (e :: es) s = performAll es t := by
  simp only [performAll, h]

theorem performAll_cons_fault {e : Event} {es : List Event} {s : State} {f : Fault} (h : perform e s = .fault f) :
    performAll (e :: es) s = .fault f := by
  simp only [performAll, h]

theorem performAll_cons_refused {e : Event} {es : List Event} {s : State} {r : Refusal} (h : perform e s = .refused r) :
    performAll (e :: es) s = .refused r := by
  simp only [performAll, h]

theorem performAll_singleton (e : Event) (s : State) : performAll [e] s = perform e s := by
  cases h : perform e s <;> simp only [performAll, h]

/-- The post of a registered device commutes with a tick other than `InterruptCheck`. -/
theorem tick_posted (d : Nat) (item : Item) (s : State) (hs : s.stage ≠ .interruptCheck) :
    tick (acceptInterrupt d (bufferItem d item s)) = acceptInterrupt d (bufferItem d item (tick s)) := by
  obtain ⟨hdevices, hiq⟩ := tick_interrupts s hs
  rw [acceptInterrupt_bufferItem, acceptInterrupt_bufferItem, hdevices, hiq, tick_with_interrupts s _ _ hs]

/-- Settles O45: `tick_posted`, where the machine still runs after the tick; after a `BRK` the post is stopped. -/
theorem postCommutesWithTicks : Obligations.PostCommutesWithTicks := by
  intro d item s hrun hd hs
  have hposted : performAll [.post d item, .tick] s = .next (tick (acceptInterrupt d (bufferItem d item s))) := by
    rw [performAll_cons ((perform_post s d item hrun).trans (postEvent_registered d item s hd)), performAll_singleton]
    exact perform_tick _ hrun
  have hticked : performAll [.tick, .post d item] s = perform (.post d item) (tick s) := by
    rw [performAll_cons (perform_tick s hrun), performAll_singleton]
  refine ⟨fun hbrk => ⟨_, hposted, ?commutes⟩, fun h1 hi => ⟨⟨_, hposted⟩, ?stopped⟩⟩
  case commutes =>
    have hrun' : (tick s).run = true := by simp [tick_run, hrun, hbrk]
    have hd' : d < (tick s).devices.length := (tick_interrupts s hs).1 ▸ hd
    rw [hticked, perform_post _ d item hrun', postEvent_registered d item _ hd', tick_posted d item s hs]
  case stopped =>
    rw [hticked, perform_stopped]
    simp [tick_run, h1, hi]

/-! ### What a program sees -/

theorem programView_memoryPulse (s : State) : programView (memoryPulse s) = memoryPulse (programView s) := by
  simp only [memoryPulse, honourRead_eq, honourWrite_eq]
  rfl

/-- `InterruptCheck` shows a program the stage change alone (R188). -/
theorem programView_interruptCheckStage (s : State) :
    programView (interruptCheckStage s) = { programView s with stage := .fetch } := by
  obtain h | ⟨d, q, item, rest, -, -, h⟩ := serviceInterrupt_cases s <;> rw [interruptCheckStage, h] <;> rfl

/-- What the program view of a state leaves out. -/
def hiddenOf (s : State) : SideChange :=
  { devices := some s.devices, iq := some s.iq, earlier := s.out, agenda := some s.agenda }

theorem apply_hiddenOf (s : State) : (hiddenOf s).apply (programView s) = s := by
  simp [hiddenOf, SideChange.apply, programView]

/-- What a program sees after a tick, it sees after the tick of what it sees. -/
theorem programView_tick (s : State) : programView (tick s) = programView (tick (programView s)) := by
  by_cases hs : s.stage = .interruptCheck
  · rw [tick_eq, tick_eq, programView_memoryPulse, programView_memoryPulse, cpuPulse_interruptCheck s hs,
      cpuPulse_interruptCheck (programView s) hs, programView_interruptCheckStage, programView_interruptCheckStage]
    rfl
  · calc programView (tick s) = programView (tick ((hiddenOf s).apply (programView s))) := by rw [apply_hiddenOf]
      _ = programView ((hiddenOf s).apply (tick (programView s))) := by
        rw [tick_apply (hiddenOf s) (programView s) _ rfl (fun _ => ⟨rfl, rfl⟩) fun h => absurd h hs]
      _ = programView (tick (programView s)) := rfl

theorem programView_tick_congr {s t : State} (h : programView s = programView t) :
    programView (tick s) = programView (tick t) := by
  rw [programView_tick s, h, ← programView_tick t]

/-- The first of a sequence of moves that goes through goes through, and so do the others after it. -/
theorem performAll_cons_next {e : Event} {es : List Event} {s t : State} (h : performAll (e :: es) s = .next t) :
    s.run = true ∧ ∃ u, perform e s = .next u ∧ performAll es u = .next t := by
  cases hrun : s.run with
  | false => simp [performAll_cons_fault (perform_stopped s e hrun)] at h
  | true =>
    cases he : perform e s with
    | next u => exact ⟨rfl, u, rfl, performAll_cons he ▸ h⟩
    | fault f => simp [performAll_cons_fault he] at h
    | refused r => simp [performAll_cons_refused he] at h

/-- Two states that look alike to a program look alike after the same moves, posts left out of one of the two. -/
theorem performAll_notPost (es : List Event) (s s' t : State) (hview : programView s' = programView s)
    (h : performAll es s = .next t) :
    ∃ t', performAll (es.filter Event.notPost) s' = .next t' ∧ programView t' = programView t := by
  induction es generalizing s s' with
  | nil => exact ⟨s', rfl, hview.trans (congrArg programView (Host.Outcome.next.inj h))⟩
  | cons e es ih =>
    obtain ⟨hrun, u, hu, hrest⟩ := performAll_cons_next h
    have hrun' : s'.run = true := (congrArg State.run hview).trans hrun
    cases e with
    | tick =>
      rw [perform_tick s hrun, Host.Outcome.next.injEq] at hu
      rw [List.filter_cons_of_pos rfl, performAll_cons (perform_tick s' hrun')]
      exact ih u (tick s') (hu ▸ programView_tick_congr hview) hrest
    | post d item =>
      rw [perform_post s d item hrun] at hu
      obtain ⟨-, rfl⟩ := postEvent_next hu
      rw [List.filter_cons_of_neg (by simp [Event.notPost])]
      exact ih (acceptInterrupt d (bufferItem d item s)) s' hview hrest
    | terminate =>
      rw [perform_terminate s hrun, Host.Outcome.next.injEq] at hu
      rw [List.filter_cons_of_pos rfl, performAll_cons (perform_terminate s' hrun')]
      exact ih u (terminateEvent s') (hu ▸ congrArg terminateEvent hview) hrest

/-- Settles O46: `performAll_notPost` from one state. -/
theorem postsAreInvisibleToTheProgram : Obligations.PostsAreInvisibleToTheProgram :=
  fun es s t h => performAll_notPost es s s t rfl h

/-! ### The agenda -/

theorem with_agenda_self {s : State} {a : List Event} (h : s.agenda = a) : { s with agenda := a } = s := by
  rw [← h]

/-- A tick carries any agenda through. -/
theorem tick_with_agenda (s : State) (a : List Event) : tick { s with agenda := a } = { tick s with agenda := a } :=
  tick_apply { agenda := some a } s _ rfl (fun _ => ⟨rfl, rfl⟩) fun _ => ⟨rfl, rfl⟩

/-- A move of a running machine answers alike under every agenda, which it carries through: a next state, or one
refusal. -/
theorem perform_with_agenda (e : Event) (s : State) (hrun : s.run = true) :
    (∃ t : State, ∀ a, perform e { s with agenda := a } = .next { t with agenda := a }) ∨
      ∃ r, ∀ a, perform e { s with agenda := a } = .refused r := by
  cases e with
  | tick => exact .inl ⟨tick s, fun a => by rw [perform_tick { s with agenda := a } hrun, tick_with_agenda]⟩
  | post d item =>
    by_cases hd : d < s.devices.length
    · exact .inl ⟨acceptInterrupt d (bufferItem d item s), fun a =>
        (perform_post { s with agenda := a } d item hrun).trans (postEvent_registered d item { s with agenda := a } hd)⟩
    · exact .inr ⟨.unknownDevice d, fun a => (perform_post { s with agenda := a } d item hrun).trans (if_neg hd)⟩
  | terminate => exact .inl ⟨terminateEvent s, fun a => perform_terminate { s with agenda := a } hrun⟩

theorem run_of_next {s t : State} (n : Nat) (h : step s = .next t) :
    Host.Core.run Sys2Proof.core (n + 1) s = Host.Core.run Sys2Proof.core n t := by
  have hcore : Sys2Proof.core.step s = .next t := h
  simp only [Host.Core.run, hcore]

theorem run_of_fault {s : State} {f : Fault} (n : Nat) (h : step s = .fault f) :
    Host.Core.run Sys2Proof.core (n + 1) s = .fault f := by
  have hcore : Sys2Proof.core.step s = .fault f := h
  simp only [Host.Core.run, hcore]

theorem run_of_refused {s : State} {r : Refusal} (n : Nat) (h : step s = .refused r) :
    Host.Core.run Sys2Proof.core (n + 1) s = .refused r := by
  have hcore : Sys2Proof.core.step s = .refused r := h
  simp only [Host.Core.run, hcore]

/-- Steps through an agenda are its moves: the step takes the first move off and makes it under the rest. -/
theorem run_agenda (es : List Event) (s : State) (hs : s.agenda = []) :
    Host.Core.run Sys2Proof.core es.length ({ s with agenda := es } : State) = performAll es s := by
  induction es generalizing s with
  | nil => exact congrArg Host.Outcome.next (with_agenda_self hs)
  | cons e es ih =>
    have hself : ({ s with agenda := [] } : State) = s := with_agenda_self hs
    obtain hrun | hrun := Bool.eq_false_or_eq_true s.run
    · have hstep := step_agenda { s with agenda := e :: es } e es hrun rfl
      obtain ⟨t, ht⟩ | ⟨r, hr⟩ := perform_with_agenda e s hrun
      · rw [performAll_cons (hself ▸ ht [])]
        exact (run_of_next es.length (hstep.trans (ht es))).trans (ih { t with agenda := [] } rfl)
      · rw [performAll_cons_refused (hself ▸ hr [])]
        exact run_of_refused es.length (hstep.trans (hr es))
    · rw [performAll_cons_fault (perform_stopped s e hrun)]
      exact run_of_fault es.length (step_stopped { s with agenda := e :: es } hrun)

/-- Settles O52: the three moves of a running machine, and `run_agenda`. -/
theorem agendaIsTheInterleaving : Obligations.AgendaIsTheInterleaving :=
  ⟨perform_tick, fun d item s hrun => perform_post s d item hrun, perform_terminate, run_agenda⟩

/-! ### The opcode table -/

theorem operandCount_byte_of_wf (o : Opcode) {opc : OpcodeTable} (h : opc.wf = true) :
    operandCount (o.byte opc) opc = some o.operandCount := by
  rw [operandCount, Opcode.ofByte_byte_of_wf o opc h]
  rfl

theorem byte_eq_byte_iff {opc : OpcodeTable} (h : opc.wf = true) (o p : Opcode) :
    o.byte opc = p.byte opc ↔ o = p :=
  ⟨opc.wf_injective h o p, fun e => e ▸ rfl⟩

/-- The state with an opcode in `IR`, as a table spells it. -/
def spelled (opc : OpcodeTable) (o : Opcode) (s : State) : State :=
  SideChange.apply { ir := some (o.byte opc) } s

theorem opcodeExecute1_spelled (opc : OpcodeTable) (o p : Opcode) (s : State) :
    opcodeExecute1 p (spelled opc o s) = spelled opc o (opcodeExecute1 p s) :=
  opcodeExecute1_apply _ p s

theorem interruptCheckStage_spelled (opc : OpcodeTable) (o : Opcode) (s : State) :
    interruptCheckStage (spelled opc o s) = spelled opc o (interruptCheckStage s) :=
  interruptCheckStage_apply _ rfl rfl s

/-- Outside `Fetch` two tables of distinct bytes make the same tick of an opcode, each with its own spelling. -/
theorem tick_spelled (opc : OpcodeTable) (h : opc.wf = true) (o : Opcode) (s : State) (hs : s.stage ≠ .fetch) :
    tick (spelled opc o s) opc = spelled opc o (tick (spelled Opcode.defaultTable o s)) := by
  have hdef := Opcode.defaultTable_wf
  suffices hcpu : cpuPulse (spelled opc o s) opc = spelled opc o (cpuPulse (spelled Opcode.defaultTable o s)) by
    rw [tick_eq, tick_eq, hcpu]
    exact memoryPulse_apply _ _
  cases hst : s.stage with
  | fetch => exact absurd hst hs
  | decode1 =>
    rw [cpuPulse_decode1 (spelled opc o s) hst, cpuPulse_decode1 (spelled _ o s) hst]
    refine decode1Stage_congr (R := fun t u => t = spelled opc o u) ?_ ?_ rfl rfl rfl
    · exact (operandCount_byte_of_wf o h).trans (operandCount_byte_of_wf o hdef).symm
    · exact and_congr_left' ((byte_eq_byte_iff h o .sys).trans (byte_eq_byte_iff hdef o .sys).symm)
  | decode2 =>
    rw [cpuPulse_decode2 (spelled opc o s) hst, cpuPulse_decode2 (spelled _ o s) hst]
    rfl
  | execute1 =>
    rw [cpuPulse_execute1 (spelled opc o s) hst, cpuPulse_execute1 (spelled _ o s) hst,
      execute1Stage_recognized (o := o) (Opcode.ofByte_byte_of_wf o opc h),
      execute1Stage_recognized (o := o) (Opcode.ofByte_byte_of_wf o _ hdef), opcodeExecute1_spelled,
      opcodeExecute1_spelled]
    rfl
  | execute2 =>
    rw [cpuPulse_execute2 (spelled opc o s) hst, cpuPulse_execute2 (spelled _ o s) hst]
    by_cases ho : o = .incAbs
    · rw [execute2Stage_incAbs (ho ▸ rfl), execute2Stage_incAbs (ho ▸ rfl)]
      rfl
    · rw [execute2Stage_other ((byte_eq_byte_iff h o .incAbs).not.mpr ho),
        execute2Stage_other ((byte_eq_byte_iff hdef o .incAbs).not.mpr ho)]
      rfl
  | writeBack =>
    rw [cpuPulse_writeBack (spelled opc o s) hst, cpuPulse_writeBack (spelled _ o s) hst]
    rfl
  | interruptCheck =>
    rw [cpuPulse_interruptCheck (spelled opc o s) hst, cpuPulse_interruptCheck (spelled _ o s) hst,
      interruptCheckStage_spelled, interruptCheckStage_spelled]
    rfl

/-- Settles O58: `Fetch` takes no table; `tick_spelled` for a recognized opcode; an unrecognized byte has no operand and
is the diagnostic. -/
theorem opcodeTableOnlySpellsInstructions : Obligations.OpcodeTableOnlySpellsInstructions := by
  refine ⟨Opcode.defaultTable_wf, fun opc s hs => ?fetch, fun opc o s h hs hi => ?recognized, fun opc s hq hi => ?_⟩
  case fetch => rw [tick_eq, tick_eq, cpuPulse_fetch s hs, cpuPulse_fetch s hs]
  case recognized =>
    have hself : spelled opc o s = s := by rw [spelled, SideChange.apply, Option.getD_some, ← hi]; rfl
    exact hself ▸ tick_spelled opc h o s hs
  case _ =>
    have hnone := Opcode.ofByte_eq_none.mpr hi
    have hcount : operandCount s.ir opc = none := by rw [operandCount, hnone]; rfl
    exact ⟨fun hs => tick_eq_of_quiet ((cpuPulse_decode1 s hs).trans (decode1Stage_no_operand (.inl hcount))) hq,
      fun hs => tick_execute1_unrecognized hq hs hnone⟩

end Sys2Proof.Machine
end

section
/-! PROOFS. The step and its ticks (`40_pipeline.md` section 6, `70_reset_and_hazards.md` R215). The one idea: the meaning
of the instruction at `PC` is the tick, iterated, up to the instruction's last tick before `InterruptCheck`; how that
tick leaves the machine (halted, in a string, or about to check for interrupts) decides how the step ends. -/

namespace Sys2Proof.Machine

/-! ### `RUN`, `STAGE` and `IR` along the decode path -/

@[simp] theorem impliedForm_run (op : Byte) (s : State) : (impliedForm op s).run = s.run := by simp [impliedForm]
@[simp] theorem impliedForm_stage (op : Byte) (s : State) : (impliedForm op s).stage = .execute1 := by simp [impliedForm]
@[simp] theorem impliedForm_ir (op : Byte) (s : State) : (impliedForm op s).ir = op := by simp [impliedForm]
@[simp] theorem immediateForm_run (op b : Byte) (s : State) : (immediateForm op b s).run = s.run := by
  simp [immediateForm]
@[simp] theorem immediateForm_stage (op b : Byte) (s : State) : (immediateForm op b s).stage = .execute1 := by
  simp [immediateForm]
@[simp] theorem immediateForm_ir (op b : Byte) (s : State) : (immediateForm op b s).ir = op := by simp [immediateForm]
@[simp] theorem absoluteForm_run (op : Byte) (a : Addr) (s : State) : (absoluteForm op a s).run = s.run := by
  simp [absoluteForm]
@[simp] theorem absoluteForm_stage (op : Byte) (a : Addr) (s : State) : (absoluteForm op a s).stage = .execute1 := by
  simp [absoluteForm]
@[simp] theorem absoluteForm_ir (op : Byte) (a : Addr) (s : State) : (absoluteForm op a s).ir = op := by
  simp [absoluteForm]

/-! ### The meaning of the instruction at `PC` is its ticks -/

/-- The tick `Execute1` of an opcode. -/
theorem tick_opcode {s : State} {o : Opcode} (hs : s.stage = .execute1) (hi : s.ir = o.byte) :
    tick s = memoryPulse (opcodeExecute1 o s) := by
  rw [tick_eq, cpuPulse_execute1 s hs, execute1Stage_recognized ((ofByte_ir s o).mpr hi)]

theorem ticks_succ_last (k : Nat) (s : State) : ticks (k + 1) s = tick (ticks k s) := by
  rw [Nat.add_comm, ticks_add]
  rfl

section
variable {s : State} {o : Opcode} (hq : Quiet s) (hs : s.stage = .fetch) (hb : byteAtPc s = o.byte)
include hq hs hb

/-- The three ticks of a 1-byte instruction. -/
theorem ticks_implied_opcode (hc : o.operandCount = 0 ∨ (o = .sys ∧ s.x = 1#8)) :
    ticks 3 s = memoryPulse (opcodeExecute1 o (impliedForm o.byte s)) := by
  have hform : ticks 2 s = impliedForm o.byte s := by
    rw [ticks_implied s hq hs ?_, hb]
    rw [hb]
    obtain hc | ⟨rfl, hx⟩ := hc
    · exact .inr (.inl (by rw [operandCount_byte, hc]))
    · exact .inr (.inr ⟨rfl, hx⟩)
  rw [ticks_succ_last, hform, tick_opcode (impliedForm_stage _ s) (impliedForm_ir _ s)]

/-- The three ticks of a 2-byte instruction. -/
theorem ticks_immediate_opcode (hc : o.operandCount = 1) :
    ticks 3 s = memoryPulse (opcodeExecute1 o (immediateForm o.byte (s.mem.read (s.pc + 1#16)) s)) := by
  have hform := ticks_immediate s hq hs (by rw [hb, operandCount_byte, hc])
  rw [ticks_succ_last, hform, hb, tick_opcode (immediateForm_stage _ _ s) (immediateForm_ir _ _ s)]

/-- The first four ticks of a 3-byte instruction. -/
theorem ticks_absolute_opcode (hc : o.operandCount = 2) (hx : ¬(o = .sys ∧ s.x = 1#8)) :
    ticks 4 s = memoryPulse (opcodeExecute1 o
      (absoluteForm o.byte (assemble (s.mem.read (s.pc + 2#16)) (s.mem.read (s.pc + 1#16))) s)) := by
  have hform := ticks_absolute s hq hs (by rw [hb, operandCount_byte, hc]) (by
    rintro ⟨hsys, hx1⟩
    exact hx ⟨Opcode.byte_injective _ _ (hb.symm.trans hsys), hx1⟩)
  rw [ticks_succ_last, hform, hb, tick_opcode (absoluteForm_stage _ _ s) (absoluteForm_ir _ _ s)]

end

/-- The ticks of an instruction before its `InterruptCheck`, of a string the first four (R215). -/
def execTicks (i : Instr) : Nat :=
  match i with
  | .txa | .tya | .tax | .tay | .nop | .brk => 3
  | .ldaImm _ | .ldxImm _ | .ldyImm _ | .bneRel _ => 3
  | .ldaAbs _ | .ldxAbs _ | .ldyAbs _ | .staAbs _ | .adcAbs _ | .cpxAbs _ => 4
  | .incAbs _ => 6
  | .sys none => 3
  | .sys (some _) => 4

/-- The two ticks of `INC` after its `Execute1`. -/
theorem ticks_incAbs_tail (s : State) (hs : s.stage = .execute2) (hi : s.ir = Opcode.incAbs.byte) :
    ticks 2 s = memoryPulse (writeBackStage (memoryPulse (execute2Stage s))) := by
  have h2 : tick s = memoryPulse (execute2Stage s) := by rw [tick_eq, cpuPulse_execute2 s hs]
  have hw : (memoryPulse (execute2Stage s)).stage = .writeBack := by
    rw [memoryPulse_stage, execute2Stage_stage, if_pos hi]
  show tick (tick s) = _
  rw [h2, tick_eq, cpuPulse_writeBack _ hw]

/-- The meaning of the instruction at `PC` is its ticks. -/
theorem exec_eq_ticks {s : State} {i : Instr} (hq : Quiet s) (hs : s.stage = .fetch)
    (hi : instructionAtPc s = some i) : exec i s = .next (ticks (execTicks i) s) := by
  obtain ⟨o, ho, rfl⟩ := decode3_eq_some.mp hi
  have hb : byteAtPc s = o.byte := (Opcode.byte_of_ofByte ho).symm
  cases o
  case txa | tya | tax | tay | nop | brk =>
    exact congrArg Host.Outcome.next (ticks_implied_opcode hq hs hb (.inl rfl)).symm
  case ldaImm | ldxImm | ldyImm | bneRel => exact congrArg Host.Outcome.next (ticks_immediate_opcode hq hs hb rfl).symm
  case ldaAbs | ldxAbs | ldyAbs | staAbs | adcAbs | cpxAbs =>
    exact congrArg Host.Outcome.next (ticks_absolute_opcode hq hs hb rfl (by simp)).symm
  case incAbs =>
    have h4 := ticks_absolute_opcode hq hs hb rfl (by simp)
    have hstage : (ticks 4 s).stage = .execute2 := by rw [h4]; exact memoryPulse_stage _
    have hir : (ticks 4 s).ir = Opcode.incAbs.byte := by
      rw [h4, memoryPulse_ir, opcodeExecute1_ir, absoluteForm_ir]
    show _ = Host.Outcome.next (ticks (2 + 4) s)
    rw [ticks_add, ticks_incAbs_tail _ hstage hir, h4]
    rfl
  case sys =>
    by_cases hx : s.x = 1#8
    · rw [instrOf, if_pos hx]
      show Host.Outcome.next (memoryPulse (sysExecute1 (if _ then _ else _))) = _
      rw [if_pos hx]
      exact congrArg Host.Outcome.next (ticks_implied_opcode hq hs hb (.inr ⟨rfl, hx⟩)).symm
    · rw [instrOf, if_neg hx]
      show Host.Outcome.next (memoryPulse (sysExecute1 (if _ then _ else _))) = _
      rw [if_neg hx]
      exact congrArg Host.Outcome.next (ticks_absolute_opcode hq hs hb rfl (by simp [hx])).symm

/-- The meaning of an unrecognized opcode is its ticks. -/
theorem execUnrecognized_eq_ticks {s : State} (hq : Quiet s) (hs : s.stage = .fetch)
    (hi : instructionAtPc s = none) : execUnrecognized (byteAtPc s) s = ticks 3 s := by
  have hb : Opcode.ofByte (byteAtPc s) = none := decode3_eq_none.mp hi
  have hform := ticks_implied s hq hs (.inl (by rw [operandCount, hb]; rfl))
  rw [ticks_succ_last, hform, tick_eq, cpuPulse_execute1 _ (impliedForm_stage _ s),
    execute1Stage_unrecognized ((impliedForm_ir _ s).symm ▸ hb)]
  rfl

/-! ### How an instruction ends -/

/-- The instruction is a `SYS` that streams a string that is not empty (R163). -/
abbrev Streams (i : Instr) (s : State) : Prop :=
  ∃ addr, i = .sys (some addr) ∧ s.x = 3#8 ∧ s.mem.read addr ≠ 0#8

/-- An instruction but `INC`, and `SYS`, which looks at `X` first, is a decode path and one opcode's update. -/
theorem exec_eq_pulse {i : Instr} (s : State) (hinc : i.opcode ≠ .incAbs) (hsys : i.opcode ≠ .sys) :
    ∃ t, exec i s = .next (memoryPulse (opcodeExecute1 i.opcode t)) ∧ t.run = s.run := by
  cases i
  case incAbs => exact absurd rfl hinc
  case sys => exact absurd rfl hsys
  case txa | tya | tax | tay | nop | brk => exact ⟨_, rfl, impliedForm_run _ s⟩
  case ldaImm | ldxImm | ldyImm | bneRel => exact ⟨_, rfl, immediateForm_run _ _ s⟩
  case ldaAbs | ldxAbs | ldyAbs | staAbs | adcAbs | cpxAbs => exact ⟨_, rfl, absoluteForm_run _ _ s⟩

/-- Every opcode's update goes to `InterruptCheck`, but for `INC` and `SYS` (R98). -/
theorem opcodeExecute1_stage {o : Opcode} (s : State) (hinc : o ≠ .incAbs) (hsys : o ≠ .sys) :
    (opcodeExecute1 o s).stage = .interruptCheck := by
  cases o
  case incAbs => exact absurd rfl hinc
  case sys => exact absurd rfl hsys
  all_goals rfl

/-- How an instruction ends that is none of the three with an end of their own. -/
theorem exec_plain_end {i : Instr} {s u : State} (hi : i.opcode ∉ [Opcode.brk, .incAbs, .sys])
    (hu : exec i s = .next u) : u.run = s.run ∧ u.stage = .interruptCheck := by
  simp only [List.mem_cons, List.not_mem_nil, or_false, not_or] at hi
  obtain ⟨hbrk, hinc, hsys⟩ := hi
  obtain ⟨t, ht, hrun⟩ := exec_eq_pulse s hinc hsys
  cases ht.symm.trans hu
  rw [memoryPulse_run, memoryPulse_stage, opcodeExecute1_run, opcodeExecute1_stage t hinc hsys, hrun]
  simp [hbrk]

/-- The three ways an instruction ends: halted, in a string, or about to check for interrupts. -/
theorem exec_end {i : Instr} {s u : State} (hq : Quiet s) (hw : i.wellFormed s.x = true) (hu : exec i s = .next u) :
    (i = .brk ∧ u.run = false ∧ u.ir = Opcode.brk.byte) ∨
    (Streams i s ∧ u.run = s.run ∧ u.stage = .execute1 ∧ u.ir = Opcode.sys.byte ∧ u.x = 3#8) ∨
    (i ≠ .brk ∧ ¬Streams i s ∧ u.run = s.run ∧ u.stage = .interruptCheck) := by
  cases i
  case brk =>
    cases (exec_brk s hq).symm.trans hu
    exact .inl ⟨rfl, rfl, rfl⟩
  case incAbs addr =>
    cases (exec_incAbs addr s hq).symm.trans hu
    exact .inr (.inr ⟨by simp, by simp, rfl, rfl⟩)
  case sys operand =>
    cases operand with
    | none =>
      cases (sysPrintsYAsAnInteger none s hq (by simpa [Instr.wellFormed] using hw)).symm.trans hu
      exact .inr (.inr ⟨by simp, by simp, rfl, rfl⟩)
    | some addr =>
      by_cases hx : s.x = 3#8
      · obtain ⟨hend, hbyte⟩ := sysStartsTheString (some addr) addr s hq hx rfl
        by_cases hz : s.mem.read addr = 0#8
        · cases (hend hz).symm.trans hu
          exact .inr (.inr ⟨by simp, by simp [hz], rfl, rfl⟩)
        · cases (hbyte hz).symm.trans hu
          exact .inr (.inl ⟨⟨addr, rfl, hx, hz⟩, rfl, rfl, rfl, hx⟩)
      · cases (sysOtherModesDoNothing (some addr) s hq (by simpa [Instr.wellFormed] using hw) hx).symm.trans hu
        exact .inr (.inr ⟨by simp, by simp [hx], rfl, rfl⟩)
  all_goals exact .inr (.inr ⟨nofun, by simp, exec_plain_end (by simp [Instr.opcode]) hu⟩)

/-- The timing of R215 against `execTicks`: one tick more, the `InterruptCheck`, but for `BRK` and in a string. -/
theorem instructionTicks_eq {i : Instr} {s : State} (hi : instructionAtPc s = some i) :
    instructionTicks s = if i = .brk ∨ Streams i s then execTicks i else execTicks i + 1 := by
  rw [instructionTicks, hi]
  cases i
  case sys operand => cases operand <;> simp [execTicks, Streams]
  all_goals simp [execTicks, Streams]

theorem wellFormed_of_instructionAtPc {s : State} {i : Instr} (hi : instructionAtPc s = some i) :
    i.wellFormed s.x = true := by
  obtain ⟨o, -, rfl⟩ := decode3_eq_some.mp hi
  exact wellFormed_instrOf _ _ _ _

/-! ### The step from `Fetch` -/

/-- The step of an instruction. -/
theorem step_instruction {s u : State} {i : Instr} (hrun : s.run = true) (ha : s.agenda = []) (hs : s.stage = .fetch)
    (hi : instructionAtPc s = some i) (hu : exec i s = .next u) : step s = .next (endInstruction u) := by
  rw [step_run s hrun ha, runStep_instruction s i hs hi, hu]
  rfl

/-- The step of an unrecognized opcode. -/
theorem step_unrecognized {s : State} (hrun : s.run = true) (ha : s.agenda = []) (hs : s.stage = .fetch)
    (hi : instructionAtPc s = none) : step s = .next (endInstruction (execUnrecognized (byteAtPc s) s)) := by
  rw [step_run s hrun ha, runStep_unrecognized s hs hi]

theorem endInstruction_check {u : State} (hr : u.run = true) (hs : u.stage = .interruptCheck) :
    endInstruction u = tick u :=
  if_pos ⟨hr, hs⟩

theorem endInstruction_halted {u : State} (hr : u.run = false) : endInstruction u = u :=
  if_neg (by simp [hr])

theorem endInstruction_midway {u : State} (hs : u.stage ≠ .interruptCheck) : endInstruction u = u :=
  if_neg fun h => hs h.2

/-- `RUN = 1` after some ticks was so before each of them. -/
theorem ticks_run_of_le {s : State} {j k : Nat} (hjk : j ≤ k) (h : (ticks k s).run = true) :
    (ticks j s).run = true := by
  induction k with
  | zero => exact Nat.le_zero.mp hjk ▸ h
  | succ k ih =>
    obtain hlt | rfl := Nat.lt_or_eq_of_le hjk
    · rw [ticks_succ_last, tick_run, Bool.and_eq_true] at h
      exact ih (Nat.le_of_lt_succ hlt) h.1
    · exact h

/-- The step from `Fetch`, all it can be: some ticks, then the end of the instruction. -/
theorem step_fetch_cases {s : State} (hrun : s.run = true) (ha : s.agenda = []) (hq : Quiet s)
    (hs : s.stage = .fetch) :
    ∃ n, step s = .next (endInstruction (ticks n s)) ∧
      ((instructionTicks s = n + 1 ∧ (ticks n s).run = true ∧ (ticks n s).stage = .interruptCheck) ∨
      (instructionTicks s = n ∧ n = 3 ∧ (ticks 2 s).run = true ∧ (ticks n s).run = false ∧
        (ticks n s).ir = Opcode.brk.byte) ∨
      (instructionTicks s = n ∧ (ticks n s).run = true ∧ (ticks n s).stage = .execute1 ∧
        (ticks n s).ir = Opcode.sys.byte ∧ (ticks n s).x = 3#8)) := by
  cases hi : instructionAtPc s with
  | none =>
    have hu := execUnrecognized_eq_ticks hq hs hi
    refine ⟨3, hu ▸ step_unrecognized hrun ha hs hi, .inl ⟨by rw [instructionTicks, hi], ?_, ?_⟩⟩
    · rw [← hu, execUnrecognized, memoryPulse_run]
      exact (impliedForm_run _ s).trans hrun
    · rw [← hu, execUnrecognized, memoryPulse_stage]
      rfl
  | some i =>
    have hu := exec_eq_ticks hq hs hi
    refine ⟨execTicks i, step_instruction hrun ha hs hi hu, ?_⟩
    have hticks := instructionTicks_eq hi
    obtain ⟨rfl, hr, hir⟩ | ⟨hstr, hr, hst, hir, hx⟩ | ⟨hbrk, hstr, hr, hst⟩ :=
      exec_end hq (wellFormed_of_instructionAtPc hi) hu
    · refine .inr (.inl ⟨hticks, rfl, ?_, hr, hir⟩)
      obtain ⟨o, ho, hbrk⟩ := decode3_eq_some.mp hi
      have hb : operandCount (byteAtPc s) = some 0 := by
        rw [operandCount, byteAtPc, ho, ← opcode_instrOf s.x _ _ o, hbrk]
        rfl
      rw [ticks_implied s hq hs (.inr (.inl hb)), impliedForm_run, hrun]
    · exact .inr (.inr ⟨hticks.trans (if_pos (.inr hstr)), hr.trans hrun, hst, hir, hx⟩)
    · exact .inl ⟨hticks.trans (if_neg (not_or.mpr ⟨hbrk, hstr⟩)), hr.trans hrun, hst⟩

/-- Settles O49: `step_fetch_cases` from `Fetch`, `runStep_midway` otherwise. -/
theorem stepIsTheTicksOfTheInstruction : Obligations.StepIsTheTicksOfTheInstruction := by
  intro s hrun ha hq
  refine ⟨fun hs => ?fetch, fun hs => (step_run s hrun ha).trans (runStep_midway s hs)⟩
  obtain ⟨n, hstep, ⟨hn, hr, hst⟩ | ⟨hn, h3, hr2, hr, -⟩ | ⟨hn, hr, hst, -⟩⟩ := step_fetch_cases hrun ha hq hs
  · rw [hstep, hn, endInstruction_check hr hst, ← ticks_succ_last]
    exact ⟨rfl, fun j hj => ticks_run_of_le (Nat.le_of_lt_succ hj) hr⟩
  · rw [hstep, hn, endInstruction_halted hr]
    exact ⟨rfl, fun j hj => ticks_run_of_le (by omega) hr2⟩
  · rw [hstep, hn, endInstruction_midway (by simp [hst])]
    exact ⟨rfl, fun j hj => ticks_run_of_le (Nat.le_of_lt hj) hr⟩

/-- Settles O50: the three ends of `step_fetch_cases`. -/
theorem stepEndsAtAnInstructionBoundary : Obligations.StepEndsAtAnInstructionBoundary := by
  intro s t hrun ha hq hs ht
  obtain ⟨n, hstep, ⟨-, hr, hst⟩ | ⟨-, -, -, hr, hir⟩ | ⟨-, -, hst, hir, hx⟩⟩ := step_fetch_cases hrun ha hq hs
  · cases (endInstruction_check hr hst ▸ hstep).symm.trans ht
    exact .inl (by rw [tick_stage, cpuPulse_interruptCheck _ hst, interruptCheckStage_stage])
  · cases (endInstruction_halted hr ▸ hstep).symm.trans ht
    exact .inr (.inl ⟨hr, hir⟩)
  · have hmid : (ticks n s).stage ≠ .interruptCheck := by simp [hst]
    cases (endInstruction_midway hmid ▸ hstep).symm.trans ht
    exact .inr (.inr ⟨hst, hir, hx⟩)

/-- Settles O48: what the three bytes decode to is the instruction at `PC`, and the step is its meaning and its end. -/
theorem stepRunsTheDecodedInstruction : Obligations.StepRunsTheDecodedInstruction := by
  intro s i rest hrun ha hs hd
  obtain ⟨b0, tail, hbytes, hi, -, -⟩ := decode_ok hd
  obtain ⟨rfl, rfl⟩ := List.cons.inj hbytes
  obtain ⟨t, ht⟩ := exec_answers i s
  exact ⟨wellFormed_of_instructionAtPc hi, t, ht, step_instruction hrun ha hs hi ht⟩

/-- Settles O25: the meaning of the byte, and its `InterruptCheck` tick. -/
theorem unrecognizedOpcodeIsLoggedAndSkipped : Obligations.UnrecognizedOpcodeIsLoggedAndSkipped := by
  intro s hq hrun ha hs hb
  have hi : instructionAtPc s = none := decode3_eq_none.mpr (Opcode.ofByte_eq_none.mpr hb)
  have hu : execUnrecognized (byteAtPc s) s =
      { afterImplied (s.mem.read s.pc) s with out := s.out ++ [.diag .decodeFault (s.mem.read s.pc)] } :=
    pulse_after_impliedForm hq rfl hq
  rw [step_unrecognized hrun ha hs hi, hu, endInstruction_check, tick_interruptCheck_quiet]
  · exact hq
  · rfl
  · exact hrun
  · rfl

/-! ### The store and the next `Fetch` -/

/-- A step whose instruction leaves nothing pending and goes on to `InterruptCheck` is that and the check. -/
theorem step_instruction_quiet {s u : State} {i : Instr} (hrun : s.run = true) (ha : s.agenda = [])
    (hs : s.stage = .fetch) (hi : instructionAtPc s = some i) (hu : exec i s = .next u) (hr : u.run = true)
    (hst : u.stage = .interruptCheck) (hq : Quiet u) : step s = .next (interruptCheckStage u) := by
  rw [step_instruction hrun ha hs hi hu, endInstruction_check hr hst, tick_interruptCheck_quiet u hq hst]

/-- Settles O37: the step's last tick keeps the memory that the store left, and `Fetch` reads it. -/
theorem nextFetchSeesTheStore : Obligations.NextFetchSeesTheStore := by
  intro s addr hq hm hrun ha hs
  refine ⟨fun hi => ⟨_, step_instruction_quiet hrun ha hs hi (exec_staAbs addr s hq) hrun rfl hq, ?_⟩,
    fun hi => ⟨_, step_instruction_quiet hrun ha hs hi (exec_incAbs addr s hq) hrun rfl hq, ?_⟩⟩
  all_goals
    simp only [tick_ir, interruptCheckStage_stage, interruptCheckStage_pc, interruptCheckStage_mem, if_true]
    refine ⟨rfl, trivial, Memory.read_write_same _ _ _ hm, ?_⟩
    rintro rfl
    exact Memory.read_write_same _ _ _ hm

/-! ### The string -/

/-- A tick of a string before its terminator. -/
theorem tick_string_byte {s : State} (hq : Quiet s) (hs : s.stage = .execute1) (hi : s.ir = Opcode.sys.byte)
    (hx : s.x = 3#8) (hb : s.mem.read s.ar ≠ 0#8) :
    tick s = { s with
      dr := s.mem.read s.ar, ar := s.ar + 1#16, stage := .execute1, out := s.out ++ [.outChar (s.mem.read s.ar)] } :=
  tick_execute1_recognized hs hi ((sysExecute1_string s hx).trans (streamTick_byte s hb)) hq

/-- The tick of a string at its terminator. -/
theorem tick_string_end {s : State} (hq : Quiet s) (hs : s.stage = .execute1) (hi : s.ir = Opcode.sys.byte)
    (hx : s.x = 3#8) (hb : s.mem.read s.ar = 0#8) : tick s = { s with dr := 0#8, stage := .interruptCheck } :=
  tick_execute1_recognized hs hi ((sysExecute1_string s hx).trans (streamTick_end s hb)) hq

/-- The `Execute1` ticks of a string of `n` bytes and its terminator (R163). -/
theorem ticks_string (n : Nat) (s : State) (hq : Quiet s) (hs : s.stage = .execute1) (hi : s.ir = Opcode.sys.byte)
    (hx : s.x = 3#8) (hb : ∀ i < n, s.mem.read (s.ar + BitVec.ofNat 16 i) ≠ 0#8)
    (hend : s.mem.read (s.ar + BitVec.ofNat 16 n) = 0#8) :
    ticks (n + 1) s = { s with
      ar := s.ar + BitVec.ofNat 16 n, dr := 0#8, stage := .interruptCheck
      out := s.out ++ (List.range n).map (fun i => .outChar (s.mem.read (s.ar + BitVec.ofNat 16 i))) } := by
  induction n generalizing s with
  | zero =>
    rw [BitVec.add_zero] at hend
    show tick s = _
    rw [tick_string_end hq hs hi hx hend]
    simp
  | succ n ih =>
    have hfirst : s.mem.read s.ar ≠ 0#8 := by simpa using hb 0 n.succ_pos
    rw [ticks_succ, tick_string_byte hq hs hi hx hfirst, ih]
    · simp only [← add_ofNat_succ, List.range_succ_eq_map, List.map_cons, List.map_map, BitVec.add_zero,
        List.append_assoc, List.singleton_append]
      rfl
    · exact hq
    · rfl
    · exact hi
    · exact hx
    · intro i hin
      exact add_ofNat_succ s.ar i ▸ hb (i + 1) (Nat.succ_lt_succ hin)
    · exact add_ofNat_succ s.ar n ▸ hend

/-- Settles O24: the decode path, then `ticks_string`. -/
theorem sysStreamsTheWholeString : Obligations.SysStreamsTheWholeString := by
  intro n addr s hq hs hx hi hb hend
  obtain ⟨o, ho, hinstr⟩ := decode3_eq_some.mp hi
  have hsys : o = .sys := by rw [← opcode_instrOf s.x _ _ o, hinstr]; rfl
  subst hsys
  have hbyte : byteAtPc s = Opcode.sys.byte := (Opcode.byte_of_ofByte ho).symm
  have hx1 : s.x ≠ 1#8 := by simp [hx]
  have haddr : assemble (s.mem.read (s.pc + 2#16)) (s.mem.read (s.pc + 1#16)) = addr := by
    simpa [instrOf, hx1] using hinstr
  have hform : ticks 3 s = { afterAbsolute Opcode.sys.byte addr s with stage := .execute1 } := by
    rw [ticks_absolute s hq hs (hbyte ▸ operandCount_byte .sys) fun h => hx1 h.2, hbyte, haddr,
      absoluteForm_quiet _ _ _ hq]
    rfl
  show ticks (n + 1 + 3) s = _
  rw [ticks_add, hform]
  exact ticks_string n _ hq rfl rfl hx hb hend

/-! ### No instruction stops the machine -/

/-- With nothing on the agenda a running machine answers a next state. -/
theorem runStep_answers (s : State) : ∃ t, runStep s = .next t := by
  by_cases hs : s.stage = .fetch
  · cases hi : instructionAtPc s with
    | none => exact ⟨_, runStep_unrecognized s hs hi⟩
    | some i =>
      obtain ⟨t, ht⟩ := exec_answers i s
      exact ⟨endInstruction t, by rw [runStep_instruction s i hs hi, ht]; rfl⟩
  · exact ⟨_, runStep_midway s hs⟩

/-- A refused move is a post by an id that no device has (log 29). -/
theorem perform_refused {e : Event} {s : State} {r : Refusal} (h : perform e s = .refused r) :
    ∃ d item, e = .post d item ∧ s.devices.length ≤ d ∧ r = .unknownDevice d := by
  obtain hrun | hrun := Bool.eq_false_or_eq_true s.run
  · cases e with
    | tick => simp [perform_tick s hrun] at h
    | terminate => simp [perform_terminate s hrun] at h
    | post d item =>
      by_cases hd : d < s.devices.length
      · simp [perform_post s d item hrun, postEvent_registered d item s hd] at h
      · simp only [perform_post s d item hrun, postEvent, hd, if_false, Host.Outcome.refused.injEq] at h
        exact ⟨d, item, rfl, Nat.le_of_not_lt hd, h.symm⟩
  · simp [perform_stopped s e hrun] at h

/-- A running machine's move does not fault. -/
theorem perform_ne_fault {e : Event} {s : State} (f : Fault) (hrun : s.run = true) : perform e s ≠ .fault f := by
  cases e with
  | tick => simp [perform_tick s hrun]
  | terminate => simp [perform_terminate s hrun]
  | post d item => by_cases hd : d < s.devices.length <;> simp [perform_post s d item hrun, postEvent, hd]

/-- Settles O51: the step is a stop, a move or `runStep`, which always answers. -/
theorem noInstructionStopsTheMachine : Obligations.NoInstructionStopsTheMachine := by
  refine ⟨fun s ha => ?safe, fun s f h => ?fault, fun s r h => ?refused, fun d item s hd => if_neg (Nat.not_lt_of_le hd)⟩
  case safe =>
    obtain hrun | hrun := Bool.eq_false_or_eq_true s.run
    · exact .inl (step_run s hrun ha ▸ runStep_answers s)
    · exact .inr ⟨hrun, step_stopped s hrun⟩
  case fault =>
    by_contra hrun
    rw [Bool.not_eq_false] at hrun
    cases ha : s.agenda with
    | nil =>
      obtain ⟨t, ht⟩ := runStep_answers s
      simp [step_run s hrun ha, ht] at h
    | cons e rest => exact perform_ne_fault (s := { s with agenda := rest }) f hrun (step_agenda s e rest hrun ha ▸ h)
  case refused =>
    obtain hrun | hrun := Bool.eq_false_or_eq_true s.run
    · cases ha : s.agenda with
      | nil =>
        obtain ⟨t, ht⟩ := runStep_answers s
        simp [step_run s hrun ha, ht] at h
      | cons e rest =>
        obtain ⟨d, item, rfl, hd, hr⟩ := perform_refused (step_agenda s e rest hrun ha ▸ h)
        exact ⟨d, item, rest, rfl, hd, hr⟩
    · simp [step_stopped s hrun] at h

end Sys2Proof.Machine
end

section
/-! PROOFS. The invariant (`10_state.md` sections 5 and 6, `40_pipeline.md` sections 3 to 6). The one idea: a tick keeps
it stage by stage, and a step is a move of the environment or some ticks, so that one induction on the ticks is enough. -/

namespace Sys2Proof.Machine

/-! ### A tick keeps it -/

/-- In `Fetch`, `Decode1` and `InterruptCheck` the stages' consistency asks nothing. -/
theorem stageConsistent_of_stage {s : State}
    (h : s.stage = .fetch ∨ s.stage = .decode1 ∨ s.stage = .interruptCheck) : StageConsistent s := by
  obtain h | h | h := h <;> simp [StageConsistent, h]

/-- The Memory's pulse touches nothing that the stages' consistency speaks of. -/
theorem stageConsistent_memoryPulse {s : State} (h : StageConsistent s) : StageConsistent (memoryPulse s) := by
  simpa only [StageConsistent, memoryPulse_stage, memoryPulse_ir, memoryPulse_ar, memoryPulse_hi, memoryPulse_lo] using h

theorem operandCount_incAbs : operandCount Opcode.incAbs.byte = some 2 := operandCount_byte .incAbs

/-- `Decode1` goes to `Decode2` for a 2-operand opcode only, and never straight to the `Execute1` of `INC` (R95). -/
theorem stageConsistent_decode1Stage (s : State) : StageConsistent (decode1Stage s) := by
  have hir : (decode1Stage s).ir = s.ir := by
    obtain h | h | h := decode1Stage_cases s <;> rw [h] <;> rfl
  have hstage := decode1Stage_stage s
  split at hstage
  · rename_i hlow
    simp [StageConsistent, hstage, hir, hlow.1]
  · rename_i hexec
    refine ⟨by simp [hstage], by simp [hstage], fun hinc => absurd ?_ hexec⟩
    rw [← hir, hinc]
    exact ⟨operandCount_incAbs, fun h => sys_byte_ne_incAbs_byte h.1.symm⟩

/-- `Decode2` leaves the assembled address in `AR` (R97). -/
theorem stageConsistent_decodeHigh (b : Byte) (s : State) : StageConsistent (decodeHigh b s) := by
  simp [StageConsistent]

/-- `Execute1` of `INC` keeps `AR`, `HI` and `LO`; no other goes to `Execute2` or `WriteBack` (R98). -/
theorem stageConsistent_execute1Stage {s : State} (hs : s.stage = .execute1) (h : StageConsistent s) :
    StageConsistent (execute1Stage s) := by
  obtain ⟨-, -, haddr⟩ := h
  have hir := execute1Stage_ir s
  have hstage := execute1Stage_stage s
  by_cases hinc : s.ir = Opcode.incAbs.byte
  · have he : execute1Stage s = incAbsExecute1 s := execute1Stage_recognized ((ofByte_ir s .incAbs).mpr hinc)
    rw [if_pos hinc] at hstage
    refine ⟨by simp [hstage], fun _ => hir.trans hinc, fun _ _ => ?_⟩
    rw [he]
    exact haddr hinc (.inl hs)
  · rw [if_neg hinc] at hstage
    refine ⟨?_, ?_, fun h => absurd (hir ▸ h) hinc⟩ <;> rw [hstage] <;> split <;> simp

/-- `Execute2`, of `INC` alone, keeps `IR`, `AR`, `HI` and `LO` (R99). -/
theorem stageConsistent_execute2Stage {s : State} (hs : s.stage = .execute2) (h : StageConsistent s) :
    StageConsistent (execute2Stage s) := by
  obtain ⟨-, honly, haddr⟩ := h
  have hinc := honly (.inl hs)
  rw [execute2Stage_incAbs hinc]
  exact ⟨by simp, fun _ => hinc, fun _ _ => haddr hinc (.inr (.inl hs))⟩

theorem stageConsistent_tick {s : State} (h : StageConsistent s) : StageConsistent (tick s) := by
  refine stageConsistent_memoryPulse (s := cpuPulse s) ?_
  cases hs : s.stage with
  | fetch =>
    rw [cpuPulse_fetch s hs]
    exact stageConsistent_of_stage (.inr (.inl rfl))
  | decode1 =>
    rw [cpuPulse_decode1 s hs]
    exact stageConsistent_decode1Stage s
  | decode2 =>
    rw [cpuPulse_decode2 s hs]
    exact stageConsistent_decodeHigh _ s
  | execute1 =>
    rw [cpuPulse_execute1 s hs]
    exact stageConsistent_execute1Stage hs h
  | execute2 =>
    rw [cpuPulse_execute2 s hs]
    exact stageConsistent_execute2Stage hs h
  | writeBack =>
    rw [cpuPulse_writeBack s hs]
    exact stageConsistent_of_stage (.inr (.inr rfl))
  | interruptCheck =>
    rw [cpuPulse_interruptCheck s hs]
    exact stageConsistent_of_stage (.inl rfl)

/-- A tick keeps the devices and the queue, or empties the queue. -/
theorem tick_queue (s : State) :
    ((tick s).devices = s.devices ∧ (tick s).iq = s.iq) ∨ (tick s).iq = [] := by
  by_cases hs : s.stage = .interruptCheck
  · rw [tick_eq, cpuPulse_interruptCheck s hs, memoryPulse_devices, memoryPulse_iq, interruptCheckStage_devices,
      interruptCheckStage_iq]
    obtain h | ⟨d, q, item, rest, -, -, h⟩ := serviceInterrupt_cases s <;> rw [h]
    · exact .inl ⟨rfl, rfl⟩
    · exact .inr rfl
  · exact .inl (tick_interrupts s hs)

theorem queue_tick {s : State} (hb : QueueBuffered s) (hp : QueueSorted s) :
    QueueBuffered (tick s) ∧ QueueSorted (tick s) := by
  unfold QueueBuffered QueueSorted
  obtain ⟨hdevices, hiq⟩ | hiq := tick_queue s
  · rw [hdevices, hiq]
    exact ⟨hb, hp⟩
  · rw [hiq]
    exact ⟨by simp, .nil⟩

theorem invariant_tick {s : State} (h : Invariant s) : Invariant (tick s) := by
  obtain ⟨hm, -, hb, hp, hc⟩ := h
  obtain ⟨hb', hp'⟩ := queue_tick hb hp
  exact ⟨wf_memoryPulse (cpuPulse s) ((cpuPulse_mem s).symm ▸ hm), tick_leaves_quiet s, hb', hp', stageConsistent_tick hc⟩

/-- Settles O57: `invariant_tick`. -/
theorem tickKeepsTheInvariant : Obligations.TickKeepsTheInvariant := fun _ => invariant_tick

theorem invariant_ticks {s : State} (h : Invariant s) (k : Nat) : Invariant (ticks k s) := by
  induction k with
  | zero => exact h
  | succ k ih =>
    rw [ticks_succ_last]
    exact invariant_tick ih

/-! ### A move of the environment keeps it -/

/-- A post queues a device whose buffer it has filled, and re-sorts (R184). -/
theorem invariant_posted {s : State} (h : Invariant s) {d : Nat} (item : Item) (hd : d < s.devices.length) :
    Invariant (acceptInterrupt d (bufferItem d item s)) := by
  obtain ⟨hm, hq, hb, -, hc⟩ := h
  refine ⟨hm, hq, fun e he => ?_, pairwise_sortByPrio _ _, hc⟩
  rw [acceptInterrupt_iq, mem_sortByPrio, bufferItem_iq, List.mem_append, List.mem_singleton] at he
  rw [acceptInterrupt_devices, bufferItem_devices, length_setBuf]
  by_cases hed : e = d
  · subst hed
    rw [bufOf_setBuf_self _ _ _ hd]
    exact ⟨hd, by simp⟩
  · rw [bufOf_setBuf_other _ _ _ _ (Ne.symm hed)]
    exact hb e (he.resolve_right hed)

theorem invariant_perform {e : Event} {s t : State} (h : Invariant s) (ht : perform e s = .next t) : Invariant t := by
  obtain hrun | hrun := Bool.eq_false_or_eq_true s.run
  · cases e with
    | tick =>
      rw [perform_tick s hrun, Host.Outcome.next.injEq] at ht
      exact ht ▸ invariant_tick h
    | post d item =>
      rw [perform_post s d item hrun] at ht
      obtain ⟨hd, rfl⟩ := postEvent_next ht
      exact invariant_posted h item hd
    | terminate =>
      rw [perform_terminate s hrun, Host.Outcome.next.injEq] at ht
      obtain ⟨hm, hq, hb, hp, hc⟩ := h
      exact ht ▸ ⟨hm, hq, hb, hp, hc⟩
  · simp [perform_stopped s e hrun] at ht

/-- Settles O56: with something on the agenda the step is that move; otherwise it is some ticks, by O49. -/
theorem stepKeepsTheInvariant : Obligations.StepKeepsTheInvariant := by
  intro s t h ht
  obtain hrun | hrun := Bool.eq_false_or_eq_true s.run
  · cases ha : s.agenda with
    | nil =>
      obtain ⟨hfetch, hmid⟩ := stepIsTheTicksOfTheInstruction s hrun ha h.quiet
      by_cases hs : s.stage = .fetch
      · cases (hfetch hs).1.symm.trans ht
        exact invariant_ticks h _
      · cases (hmid hs).symm.trans ht
        exact invariant_ticks h 1
    | cons e rest =>
      obtain ⟨hm, hq, hb, hp, hc⟩ := h
      exact invariant_perform (s := { s with agenda := rest }) ⟨hm, hq, hb, hp, hc⟩
        (step_agenda s e rest hrun ha ▸ ht)
  · simp [step_stopped s hrun] at ht

/-! ### It holds where the Clock can be started -/

/-- About to fetch, with an empty queue, the invariant asks for a canonical memory and nothing pending. -/
theorem invariant_of_fetch {s : State} (hm : s.mem.wf = true) (hq : Quiet s) (hs : s.stage = .fetch)
    (hiq : s.iq = []) : Invariant s :=
  ⟨hm, hq, by simp [QueueBuffered, hiq], by simp [QueueSorted, hiq], stageConsistent_of_stage (.inl hs)⟩

/-- Settles O54: the reset values. -/
theorem resetMeetsTheInvariant : Obligations.ResetMeetsTheInvariant :=
  invariant_of_fetch rfl ⟨rfl, rfl⟩ rfl rfl

/-- Settles O55: registering changes only the devices, loading only memory, `AR` and `DR`, and the queue is empty. -/
theorem bootStatesMeetTheInvariant : Obligations.BootStatesMeetTheInvariant := by
  intro s hboot
  induction hboot with
  | reset => exact ⟨resetMeetsTheInvariant, rfl, rfl, rfl⟩
  | register s dev _ _ ih =>
    obtain ⟨h, hrun, hs, hiq⟩ := ih
    exact ⟨invariant_of_fetch h.canonical h.quiet hs hiq, hrun, hs, hiq⟩
  | flash s t start bytes _ ht ih =>
    obtain ⟨h, hrun, hs, hiq⟩ := ih
    obtain ⟨-, rfl⟩ := flash_next ht
    have hm := wf_flashBytes start bytes s h.canonical
    rw [flashBytes_frame]
    exact ⟨invariant_of_fetch hm h.quiet hs hiq, hrun, hs, hiq⟩

end Sys2Proof.Machine
end
